-- ==== Sys2Proof/Word.lean ====
section
/-! DEFINITION. The two word types of the core (00_scope.md R6, R7): the 8-bit byte of a register or a memory cell, and the
16-bit word of a register pair, SP, PC and an address. Arithmetic on both wraps (BitVec addition and subtraction), as R7 says. -/

namespace Sys2Proof

/-- An 8-bit value: a general register, F, IF, IE, an opcode byte, a memory cell (R6). -/
abbrev Byte := BitVec 8

/-- A 16-bit value: a pair view, SP, PC, an address (R6). -/
abbrev Word := BitVec 16

end Sys2Proof
end

