-- ==== Sys2Proof/Machine/Bits.lean ====
section
/-! DEFINITION. The bit-field, byte-order and sign-extension helpers of 00_scope.md R7. -/

namespace Sys2Proof

/-- `hi(v) = v[15:8]` (R7). -/
def hi (v : Word) : Byte := v.extractLsb' 8 8

/-- `lo(v) = v[7:0]` (R7). -/
def lo (v : Word) : Byte := v.extractLsb' 0 8

/-- `{h, l}`, the first part the more significant (R7). -/
def pair (h l : Byte) : Word := h ++ l

/-- `sext_16(v)`: the top bit copied, two's complement (R7). -/
def sext16 (v : Byte) : Word := v.signExtend 16

end Sys2Proof
end

