-- ==== Sys2Proof/Config.lean ====
section
/-! DEFINITION. The parameters of 00_scope.md R6: what the spec leaves to the implementation or to the platform.
`INCDEC8_FLAGS` and `RESET` have an instance each, `CYCLES`, `WORD_ACCESS_ORDER` and what `BUS` answers at the platform's addresses
are constants without a body, so every value of them is covered, `HALT_BUG_POLICY` is the refusal `haltBug` of
Machine/State.lean, and `ENV` and the extent of the platform are input data of the state (Machine/State.lean). -/

namespace Sys2Proof.Config

/-- The parameter `INCDEC8_FLAGS` (45_inc_dec.md R184): whether INC r and DEC r write Z, N and H. -/
inductive IncDec8Flags where
  /-- Z, N and H are written as the SM83 does. -/
  | hw
  /-- No flag is written. -/
  | none
  deriving DecidableEq, Repr

/-- The value R184 takes for the hardware it specifies (92_eei_decisions.md D5; log entry 2). -/
def incDec8Flags : IncDec8Flags := .hw

/-- The parameter `WORD_ACCESS_ORDER` (20_memory.md R51): which byte of a 16-bit access comes first in time. -/
inductive WordAccessOrder where
  | loFirst
  | hiFirst
  deriving DecidableEq, Repr, Inhabited

/-- One event on the bus: a byte access of the core (20_memory.md R41), or a change the environment makes at an address (R59). -/
inductive BusEvent where
  | read (addr : Word)
  | write (addr : Word) (v : Byte)
  | outside (addr : Word) (v : Byte)
  deriving DecidableEq, Repr

/-- The parameter `BUS` at the platform's addresses (20_memory.md R41, R52): the byte a read answers, from everything that
happened at those addresses before it, newest first, and IF and IE, which a platform may map there (R55). It has no body: a
read answers anything, may have a side effect, and need not repeat (92_eei_decisions.md D26; log entry 8). -/
opaque platformRead (past : List BusEvent) (ifReg ieReg : Byte) (addr : Word) : Byte

/-- The parameter `WORD_ACCESS_ORDER` where it can be seen, at a word whose two bytes are the platform's: a free choice for each
access (92_eei_decisions.md D10; log entry 7). -/
opaque wordAccessOrder (past : List BusEvent) (addr : Word) : WordAccessOrder

/-- The parameter `CYCLES` (70_reset_and_hazards.md R250), one base cycle cost per opcode byte. The source gives no number, so
this constant has no body: nothing can be proved about its values (log entry 6). -/
opaque cycles : Byte → Nat

/-- The parameter `RESET` (70_reset_and_hazards.md R240): one field per state element whose reset value the source leaves open.
`halted` and `fatal` are fixed by R240 and are no fields. -/
structure Reset where
  a : Byte
  f : Byte
  b : Byte
  c : Byte
  d : Byte
  e : Byte
  h : Byte
  l : Byte
  sp : Word
  pc : Word
  ime : Bool
  ifReg : Byte
  ieReg : Byte
  deriving DecidableEq, Repr

/-- R240's suggested instance of `RESET`: the state in which a DMG Game Boy's boot ROM hands over to the cartridge.
PRESUMED: the spec marks the values as general knowledge, not in its source (log entry 1; unsafe). -/
def dmgPostBoot : Reset :=
  { a := 0x01, f := 0xB0, b := 0x00, c := 0x13, d := 0x00, e := 0xD8, h := 0x01, l := 0x4D, sp := 0xFFFE, pc := 0x0100,
    ime := false, ifReg := 0xE1, ieReg := 0x00 }

/-- What an address that memory does not list reads as. DESIGN CHOICE: memory's initial content is the platform's (R240, R41);
zero is the value the spec's own programs give to a byte they do not list (95_test_vectors.md Part 4; log entry 3; unsafe). -/
def unlistedByte : Byte := 0x00

end Sys2Proof.Config
end

