-- ==== Sys2Proof/Machine/State.lean ====
section
/-! DEFINITION. The state of the core (10_state.md), the memory behind its bus, the environment's pending moves, the reasons a
step can stop, and reset (70_reset_and_hazards.md R240). -/

namespace Sys2Proof.Machine

/-- The fatal errors of 60_exceptions.md R200. The instruction that raises one ends in a NEXT state whose `fatal` field holds it
(R204); `step` answers `.fault` with it in every state whose `fatal` field is set, since such a state has no successor.
Safe: nothing follows a fatal error on this core. -/
inductive Fault where
  /-- Raised by decode (30_encoding.md R77 to R79) when the pair (opcode, cbPrefixed) has no table row. Safe: R201 makes it
  terminal. -/
  | decodeError (opcode : Byte) (cbPrefixed : Bool)
  /-- Raised by the resolver and the handlers of Machine/Engine.lean on a descriptor of the wrong shape (40_operands.md R107);
  no instruction of the table raises it (R202). Safe. -/
  | operandShapeError
  /-- Raised by the dispatch of Machine/Engine.lean for a mnemonic without a handler; no mnemonic lacks one (R203). Safe. -/
  | unimplementedMnemonic
  deriving DecidableEq, Repr

/-- Why a step has no meaning. -/
inductive Refusal where
  /-- The instruction has no meaning yet (`exec`'s arm says so); no arm of this model answers it. Safe. -/
  | notModelled (mnemonic : String)
  /-- HALT with IME false while an enabled request is pending (42_di_ei_halt.md R133): the spec gives the case no successor
  state (`HALT_BUG_POLICY = refuse`). Raised by HALT alone. Safe. -/
  | haltBug
  deriving DecidableEq, Repr

/-- Memory: (address, byte) pairs in one canonical form, addresses strictly rising and below 2^16 (20_memory.md R40), no byte
equal to `Config.unlistedByte`. -/
abbrev Memory := List Host.Cell

/-- The five interrupt sources (10_state.md R24). -/
inductive Source where
  | vblank | lcdStat | timer | serial | joypad
  deriving DecidableEq, Repr

/-- One move of the environment, the parameter `ENV` (20_memory.md R59): peripherals set request bits (60_exceptions.md R207),
the platform's register mapping changes IF or IE (20_memory.md R55), and anything outside changes memory. -/
inductive EnvMove where
  | request (src : Source)
  | setIF (v : Byte)
  | setIE (v : Byte)
  | setMem (addr : Word) (v : Byte)
  deriving DecidableEq, Repr

/-- A range of addresses, both ends included. -/
structure Span where
  first : Word
  last : Word
  deriving DecidableEq, Repr

/-- The state. Three fields are the model's own, for the parameters `ENV` and `BUS` of 00_scope.md R6, and every other field is
named by 10_state.md or 20_memory.md. `env` holds the batches of moves the environment will make, one batch at each boundary
between core operations, oldest first (log entry 5). `platform` holds the addresses whose meaning is the platform's, none of
them for flat RAM and all of them for a bus of which nothing is known, and `busLog` what has happened there, newest first (log
entry 8). -/
structure State where
  a : Byte
  f : Byte
  b : Byte
  c : Byte
  d : Byte
  e : Byte
  h : Byte
  l : Byte
  sp : Word
  pc : Word
  ime : Bool
  ifReg : Byte
  ieReg : Byte
  halted : Bool
  fatal : Option Fault
  mem : Memory
  platform : List Span
  busLog : List Config.BusEvent
  env : List (List EnvMove)
  deriving DecidableEq, Repr

/-- The state after reset for a value of the parameter `RESET` (R240), on a bus with a given initial content and a given extent of
the platform: `halted` is false and `fatal` none whatever they are, and nothing has happened on the bus. -/
def State.resetWith (r : Config.Reset) (content : Memory) (platform : List Span) : State :=
  { a := r.a, f := r.f, b := r.b, c := r.c, d := r.d, e := r.e, h := r.h, l := r.l, sp := r.sp, pc := r.pc, ime := r.ime,
    ifReg := r.ifReg, ieReg := r.ieReg, halted := false, fatal := none, mem := content, platform := platform, busLog := [],
    env := [] }

/-- The state after reset, at R240's suggested instance (log entry 1), on flat RAM that lists nothing (log entries 3 and 8). -/
def State.reset : State := State.resetWith Config.dmgPostBoot [] []

end Sys2Proof.Machine
end

