-- ==== Sys2Proof/Syntax.lean ====
section
/-! DEFINITION. The instructions of the admitted set (30_encoding.md R84) and the source's data model of an instruction, the
descriptor with its operand descriptors (40_operands.md R100, R101). -/

namespace Sys2Proof

/-- The seven 8-bit operand registers (10_state.md R10; 30_encoding.md R73 without code 6). -/
inductive Reg8 where
  | b | c | d | e | h | l | a
  deriving DecidableEq, Repr

/-- The 16-bit operand registers: three pair views and SP (30_encoding.md R74). -/
inductive Reg16 where
  | bc | de | hl | sp
  deriving DecidableEq, Repr

/-- The jump conditions (10_state.md R20; 30_encoding.md R75). -/
inductive Cond where
  | nz | z | nc | c
  deriving DecidableEq, Repr

/-- The admitted instructions, one constructor per instruction form of R84, that is per instruction rule of 41 to 45; a row
of the opcode table is a constructor with its register, pair or condition chosen, so the 129 rows are exactly the
constructors at every value of those operands. -/
inductive Instr where
  /-- `NOP`, R120 -/
  | nop
  /-- `JP a16`, R121 -/
  | jpImm (a16 : Word)
  /-- `JP cc,a16`, R122 -/
  | jpCond (cc : Cond) (a16 : Word)
  /-- `JP HL`, R123 -/
  | jpHL
  /-- `DI`, R130 -/
  | di
  /-- `EI`, R131 -/
  | ei
  /-- `HALT`, R132 and R133 -/
  | halt
  /-- `XOR r`, R141 -/
  | xorReg (r : Reg8)
  /-- `XOR (HL)`, R142 -/
  | xorIndHL
  /-- `XOR d8`, R143 -/
  | xorImm (d8 : Byte)
  /-- `LD r,r'`, R151 -/
  | ldRegReg (dst src : Reg8)
  /-- `LD r,d8`, R152 -/
  | ldRegImm (dst : Reg8) (d8 : Byte)
  /-- `LD r,(HL)`, R153 -/
  | ldRegIndHL (dst : Reg8)
  /-- `LD (HL),r`, R154 -/
  | ldIndHLReg (src : Reg8)
  /-- `LD (HL),d8`, R155 -/
  | ldIndHLImm (d8 : Byte)
  /-- `LD rr,d16`, R156 -/
  | ldPairImm (rr : Reg16) (d16 : Word)
  /-- `LD (BC),A`, R157 -/
  | ldIndBCA
  /-- `LD (DE),A`, R158 -/
  | ldIndDEA
  /-- `LD (HL+),A`, R159 -/
  | ldIndHLIncA
  /-- `LD (HL-),A`, R160 -/
  | ldIndHLDecA
  /-- `LD A,(BC)`, R161 -/
  | ldAIndBC
  /-- `LD A,(DE)`, R162 -/
  | ldAIndDE
  /-- `LD A,(HL+)`, R163 -/
  | ldAIndHLInc
  /-- `LD A,(HL-)`, R164 -/
  | ldAIndHLDec
  /-- `LD (a16),A`, R165 -/
  | ldIndImmA (a16 : Word)
  /-- `LD A,(a16)`, R166 -/
  | ldAIndImm (a16 : Word)
  /-- `LD (a16),SP`, R167 -/
  | ldIndImmSP (a16 : Word)
  /-- `LD SP,HL`, R168 -/
  | ldSPHL
  /-- `LD HL,SP+r8`, R169 -/
  | ldHLSPImm (r8 : Byte)
  /-- `INC r`, R180 -/
  | incReg (r : Reg8)
  /-- `DEC r`, R181 -/
  | decReg (r : Reg8)
  /-- `INC rr`, R182 -/
  | incPair (rr : Reg16)
  /-- `DEC rr`, R183 -/
  | decPair (rr : Reg16)
  deriving DecidableEq, Repr

/-- The four formats of 30_encoding.md R71. -/
inductive Format where
  | op | opD8 | opR8 | opD16
  deriving DecidableEq, Repr

/-- The closed set of mnemonics (R100). -/
inductive Mnemonic where
  | nop | jp | di | ei | halt | xor | ld | inc | dec
  deriving DecidableEq, Repr

/-- An operand's symbol (R101): the kinds `Reg` (at its two widths), `Imm8`, `Imm16`, `Cond` and `Addr16`, with the literal
captured at decode. -/
inductive Sym where
  | reg8 (r : Reg8)
  | reg16 (r : Reg16)
  | imm8 (v : Byte)
  | imm16 (v : Word)
  | cond (cc : Cond)
  | addr16 (v : Word)
  deriving DecidableEq, Repr

/-- An operand descriptor (R101); its width is its symbol's (`Sym.width` of Machine/Descriptor.lean). -/
structure Operand where
  sym : Sym
  deref : Bool := false
  inc : Bool := false
  dec : Bool := false
  deriving DecidableEq, Repr

/-- An instruction descriptor (R100), with the literals captured at decode (30_encoding.md R77). -/
structure Descriptor where
  mnemonic : Mnemonic
  operands : List Operand
  cbPrefixed : Bool
  baseCycles : Nat
  deriving DecidableEq, Repr

end Sys2Proof
end

