-- ==== Sys2Proof/Machine/Flags.lean ====
section
/-! DEFINITION. The flag register's operations (10_state.md R11 to R13, R19, R20) and every flag computation of the instruction
rules (43_xor.md R140, 44_ld.md R169, 45_inc_dec.md R180 and R181). -/

namespace Sys2Proof.Machine

/-- The four flags (R12). -/
inductive Flag where
  | z | n | h | c
  deriving DecidableEq, Repr

/-- A flag's bit of F as a mask (R12): Z is bit 7, N bit 6, H bit 5, C bit 4. -/
def Flag.mask : Flag → Byte
  | .z => 0x80
  | .n => 0x40
  | .h => 0x20
  | .c => 0x10

/-- `setFlag` on an F value (R19): one bit to 1, the other seven kept. -/
def setFlag (fl : Flag) (f : Byte) : Byte := f ||| fl.mask

/-- `clearFlag` on an F value (R19). -/
def clearFlag (fl : Flag) (f : Byte) : Byte := f &&& ~~~fl.mask

/-- `testFlag` on an F value (R19). -/
def testFlag (fl : Flag) (f : Byte) : Bool := (f &&& fl.mask) != 0

/-- `F.fl <- b`. -/
def putFlag (fl : Flag) (b : Bool) (f : Byte) : Byte := if b then setFlag fl f else clearFlag fl f

/-- What a write of a whole byte to F stores (R13): the low nibble stays zero. -/
def maskF (v : Byte) : Byte := v &&& 0xF0

/-- `evaluateCondition` on an F value (R20). -/
def evalCond (cc : Cond) (f : Byte) : Bool :=
  match cc with
  | .z => testFlag .z f
  | .nz => !testFlag .z f
  | .c => testFlag .c f
  | .nc => !testFlag .c f

/-- F after an XOR with result `res` (R140): Z from the result, N, H and C cleared. -/
def xorFlags (res f : Byte) : Byte :=
  clearFlag .c (clearFlag .h (clearFlag .n (putFlag .z (res == 0) f)))

/-- R169's half-carry condition, on natural numbers. -/
def spHalfCarry (sp : Word) (r8 : Byte) : Bool := decide ((sp &&& 0x000F).toNat + (r8 &&& 0x0F).toNat > 0x0F)

/-- R169's carry condition, on natural numbers. -/
def spCarry (sp : Word) (r8 : Byte) : Bool := decide ((sp &&& 0x00FF).toNat + (r8 &&& 0xFF).toNat > 0xFF)

/-- F after LD HL,SP+r8 (R169): H and C are set when their condition holds and otherwise kept, Z and N are cleared. -/
def spImmFlags (sp : Word) (r8 f : Byte) : Byte :=
  let f1 := if spHalfCarry sp r8 then setFlag .h f else f
  let f2 := if spCarry sp r8 then setFlag .c f1 else f1
  clearFlag .n (clearFlag .z f2)

/-- F after INC r from the old register value (R180), for a value of the parameter `INCDEC8_FLAGS` (R184). -/
def incFlags (p : Config.IncDec8Flags) (old f : Byte) : Byte :=
  match p with
  | .hw => putFlag .h ((old &&& 0x0F) == 0x0F) (clearFlag .n (putFlag .z (old + 1 == 0) f))
  | .none => f

/-- F after DEC r from the old register value (R181), for a value of the parameter `INCDEC8_FLAGS` (R184). -/
def decFlags (p : Config.IncDec8Flags) (old f : Byte) : Byte :=
  match p with
  | .hw => putFlag .h ((old &&& 0x0F) == 0x00) (setFlag .n (putFlag .z (old - 1 == 0) f))
  | .none => f

end Sys2Proof.Machine
end

