-- ==== Sys2Proof/Machine/Ops.lean ====
section
/-! DEFINITION. The named operations over registers and memory: the register file (10_state.md R14 to R19), the bus with its
16-bit accesses (20_memory.md R41 to R45, R51), fetch (R46), the stack (R48), raising a fatal error (60_exceptions.md R204), and
the interrupt controller's selection, dispatch and check (R210 to R214). -/

namespace Sys2Proof.Machine

/-! ## The register file -/

/-- `x[r]` of an 8-bit operand register (R18). -/
def State.get8 (s : State) : Reg8 → Byte
  | .b => s.b
  | .c => s.c
  | .d => s.d
  | .e => s.e
  | .h => s.h
  | .l => s.l
  | .a => s.a

/-- `x[r] <- v` of an 8-bit operand register (R18). -/
def State.set8 (s : State) (r : Reg8) (v : Byte) : State :=
  match r with
  | .b => { s with b := v }
  | .c => { s with c := v }
  | .d => { s with d := v }
  | .e => { s with e := v }
  | .h => { s with h := v }
  | .l => { s with l := v }
  | .a => { s with a := v }

/-- `x[rr]` of a 16-bit operand register: a pair is composed from its halves, first letter high (R14, R18). -/
def State.get16 (s : State) : Reg16 → Word
  | .bc => pair s.b s.c
  | .de => pair s.d s.e
  | .hl => pair s.h s.l
  | .sp => s.sp

/-- `x[rr] <- w` of a 16-bit operand register: a pair write is two 8-bit writes (R15, R18). -/
def State.set16 (s : State) (r : Reg16) (w : Word) : State :=
  match r with
  | .bc => { s with b := hi w, c := lo w }
  | .de => { s with d := hi w, e := lo w }
  | .hl => { s with h := hi w, l := lo w }
  | .sp => { s with sp := w }

/-- `x[HL]`. -/
abbrev State.hl (s : State) : Word := s.get16 .hl

/-- `set(F, v)` (R13, R18): the low nibble is dropped. No instruction performs it. -/
def State.setF (s : State) (v : Byte) : State := { s with f := maskF v }

/-- `x[AF]` (R14). No instruction reads it. -/
def State.getAF (s : State) : Word := pair s.a s.f

/-- `set(AF, w)` (R13, R15). No instruction performs it. -/
def State.setAF (s : State) (w : Word) : State := { s with a := hi w, f := maskF (lo w) }

/-! ## Memory: the flat RAM part of the bus -/

/-- The byte at an address: the listed one, else `Config.unlistedByte`. -/
def Memory.read : Memory → Nat → Byte
  | [], _ => Config.unlistedByte
  | (k, v) :: m, a => if k = a then v else Memory.read m a

/-- A cell put in front of a memory whose addresses are higher, unless the value is what an unlisted address reads as. -/
def Memory.consCell (a : Nat) (v : Byte) (m : Memory) : Memory := if v = Config.unlistedByte then m else (a, v) :: m

/-- A byte stored, in the canonical form. -/
def Memory.write : Memory → Nat → Byte → Memory
  | [], a, v => Memory.consCell a v []
  | (k, w) :: m, a, v =>
    if a < k then Memory.consCell a v ((k, w) :: m)
    else if a = k then Memory.consCell a v m
    else (k, w) :: Memory.write m a v

/-- The canonical form from an address on: addresses strictly rising, below 2^16, no byte equal to the unlisted one. -/
def Memory.wfFrom : Nat → Memory → Bool
  | _, [] => true
  | n, (k, v) :: m => decide (n ≤ k) && decide (k < 65536) && (v != Config.unlistedByte) && Memory.wfFrom (k + 1) m

/-- The canonical form of memory. -/
def Memory.wf (m : Memory) : Bool := Memory.wfFrom 0 m

/-! ## The bus (parameter `BUS`, R41): flat RAM, but for the platform's addresses -/

/-- Whether a range holds an address. -/
def Span.has (r : Span) (a : Word) : Bool := decide (r.first ≤ a) && decide (a ≤ r.last)

/-- Whether an address is the platform's. -/
def State.onPlatform (s : State) (a : Word) : Bool := s.platform.any (·.has a)

/-- The address of a bus event. -/
def addrOf : Config.BusEvent → Word
  | .read a => a
  | .write a _ => a
  | .outside a _ => a

/-- What an event does to flat RAM: nothing at the platform's addresses. -/
def State.memAfter (s : State) : Config.BusEvent → Memory
  | .read _ => s.mem
  | .write a v => if s.onPlatform a then s.mem else s.mem.write a.toNat v
  | .outside a v => if s.onPlatform a then s.mem else s.mem.write a.toNat v

/-- What an event adds to the platform's history: nothing at an address that is flat RAM. -/
def State.logAfter (s : State) (x : Config.BusEvent) : List Config.BusEvent :=
  if s.onPlatform (addrOf x) then x :: s.busLog else s.busLog

/-- One event on the bus. No register, IF or IE changes: what a platform does to them is a move of the environment. -/
def State.access (s : State) (x : Config.BusEvent) : State := { s with mem := s.memAfter x, busLog := s.logAfter x }

/-- Events on the bus, in order. -/
def State.replay (s : State) (xs : List Config.BusEvent) : State := xs.foldl State.access s

/-- The byte `read8(addr)` answers (R41, R42): the RAM's, or at a platform address whatever the platform answers. -/
def State.read8 (s : State) (a : Word) : Byte :=
  if s.onPlatform a then Config.platformRead s.busLog s.ifReg s.ieReg a else s.mem.read a.toNat

/-- The state after `read8(addr)`: the platform has seen it (R52); on flat RAM nothing changes. -/
def State.afterRead8 (s : State) (a : Word) : State := s.access (.read a)

/-- `write8(addr, v)` (R41, R43). -/
def State.write8 (s : State) (a : Word) (v : Byte) : State := s.access (.write a v)

/-- The order of the two byte accesses of a word (R51): free where both bytes are the platform's. Elsewhere the two orders do the
same, and `o` is the one taken (log entry 7). -/
def State.wordOrder (s : State) (o : Config.WordAccessOrder) (a : Word) : Config.WordAccessOrder :=
  if s.onPlatform a && s.onPlatform (a + 1) then Config.wordAccessOrder s.busLog a else o

/-- The word `read16(addr)` answers with its byte reads in the order given: little-endian, `addr + 1` modulo 2^16 (R42, R45). -/
def State.read16In (o : Config.WordAccessOrder) (s : State) (a : Word) : Word :=
  match o with
  | .loFirst => pair ((s.afterRead8 a).read8 (a + 1)) (s.read8 a)
  | .hiFirst => pair (s.read8 (a + 1)) ((s.afterRead8 (a + 1)).read8 a)

/-- The state after `read16(addr)` with its byte reads in the order given. -/
def State.afterRead16In (o : Config.WordAccessOrder) (s : State) (a : Word) : State :=
  match o with
  | .loFirst => (s.afterRead8 a).afterRead8 (a + 1)
  | .hiFirst => (s.afterRead8 (a + 1)).afterRead8 a

/-- `write16(addr, v)` with its byte writes in the order given (R43, R45). -/
def State.write16In (o : Config.WordAccessOrder) (s : State) (a : Word) (v : Word) : State :=
  match o with
  | .loFirst => (s.write8 a (lo v)).write8 (a + 1) (hi v)
  | .hiFirst => (s.write8 (a + 1) (hi v)).write8 a (lo v)

/-- The word `read16(addr)` answers (R42, R51). -/
def State.read16 (s : State) (a : Word) : Word := s.read16In (s.wordOrder .loFirst a) a

/-- The state after `read16(addr)`. -/
def State.afterRead16 (s : State) (a : Word) : State := s.afterRead16In (s.wordOrder .loFirst a) a

/-- `write16(addr, v)` (R43, R51). -/
def State.write16 (s : State) (a : Word) (v : Word) : State := s.write16In (s.wordOrder .loFirst a) a v

/-! ## Fetch and the stack -/

/-- PC moved on by n bytes, modulo 2^16 (R45). -/
def State.advancePC (s : State) (n : Word) : State := { s with pc := s.pc + n }

/-- `Fetch8()` (R46). -/
def State.fetch8 (s : State) : Byte × State := (s.read8 s.pc, (s.afterRead8 s.pc).advancePC 1)

/-- `Fetch16()` (R46): the first byte in the stream is the low one. -/
def State.fetch16 (s : State) : Word × State := (s.read16 s.pc, (s.afterRead16 s.pc).advancePC 2)

/-- `Push16(v)` (R48): SP moves down by 2, then v is written at the new SP. -/
def State.push16 (s : State) (v : Word) : State := { s with sp := s.sp - 2 }.write16 (s.sp - 2) v

/-- `Pop16()` (R48). No admitted instruction and no operation of the core uses it (60_exceptions.md R216). -/
def State.pop16 (s : State) : Word × State := (s.read16 s.sp, { s.afterRead16 s.sp with sp := s.sp + 2 })

/-! ## Fatal errors -/

/-- `raise <Fatal>`: the terminal status takes its value and nothing else changes (60_exceptions.md R201, R204). -/
def State.raiseFatal (s : State) (f : Fault) : State := { s with fatal := some f }

/-! ## The interrupt controller -/

/-- A source's bit of IF and IE (10_state.md R24). -/
def Source.bit : Source → Nat
  | .vblank => 0
  | .lcdStat => 1
  | .timer => 2
  | .serial => 3
  | .joypad => 4

/-- A source's mask of IF and IE (R24). -/
def Source.mask : Source → Byte
  | .vblank => 0x01
  | .lcdStat => 0x02
  | .timer => 0x04
  | .serial => 0x08
  | .joypad => 0x10

/-- A source's vector address (R24). -/
def Source.vector : Source → Word
  | .vblank => 0x0040
  | .lcdStat => 0x0048
  | .timer => 0x0050
  | .serial => 0x0058
  | .joypad => 0x0060

/-- `IF & IE & 0x1F`: the serviceable sources (60_exceptions.md R208, R212). -/
def serviceable (ifReg ieReg : Byte) : Byte := ifReg &&& ieReg &&& 0x1F

/-- The source of the lowest set bit, the one of highest priority (R210). -/
def leastSource (v : Byte) : Option Source :=
  if v.getLsbD 0 then some .vblank
  else if v.getLsbD 1 then some .lcdStat
  else if v.getLsbD 2 then some .timer
  else if v.getLsbD 3 then some .serial
  else if v.getLsbD 4 then some .joypad
  else none

/-- What `select` answers (R211). -/
structure Selection where
  source : Source
  newIF : Byte
  newIME : Bool
  vector : Word
  deriving DecidableEq, Repr

/-- The selection as a pure function of IF, IE and IME (R211). -/
def select (ifReg ieReg : Byte) (ime : Bool) : Option Selection :=
  if serviceable ifReg ieReg = 0#8 || !ime then none
  else (leastSource (serviceable ifReg ieReg)).map fun i =>
    { source := i, newIF := ifReg &&& ~~~((1 : Byte) <<< i.bit), newIME := false, vector := 0x0040 + 8 * BitVec.ofNat 16 i.bit }

/-- Dispatch of a source, the core's one trap entry (R213): PC pushed, the vector loaded, the one request bit and IME cleared,
`halted` cleared; nothing else is saved. -/
def State.dispatch (s : State) (i : Source) : State :=
  { s.push16 s.pc with pc := i.vector, ifReg := s.ifReg &&& ~~~i.mask, ime := false, halted := false }

/-- `check()` (R212): wake-up whenever a source is serviceable, dispatch of the first one when IME allows it; the answer is the
source serviced. -/
def State.check (s : State) : State × Option Source :=
  if serviceable s.ifReg s.ieReg = 0#8 then (s, none)
  else
    let w := { s with halted := false }
    if s.ime then
      match leastSource (serviceable s.ifReg s.ieReg) with
      | some i => (w.dispatch i, some i)
      | none => (w, none)
    else (w, none)

/-! ## Reset -/

/-- Reset as an event from outside the core (70_reset_and_hazards.md R242): whatever the state was, the core is in the state of
R240. The bus and the environment are not the core's and stay as they are (log entry 22). No step performs it. -/
def State.resetCore (r : Config.Reset) (s : State) : State :=
  { State.resetWith r s.mem s.platform with busLog := s.busLog, env := s.env }

end Sys2Proof.Machine
end

