-- ==== Sys2Proof/Decode.lean ====
section
/-! DEFINITION. The InstructionTable and decode (30_encoding.md R70 to R86): the opcode map of R84 as the spec prints it, its
lookup, the decoder over a list of bytes, and the encoder written from the encodings of R73 to R75 and R84's second table.
Every byte value is the spec's own general knowledge (93_implementation_defined.md G1 to G5; log entry 9). -/

namespace Sys2Proof

/-- A row of the table with its immediate still to be fetched: the row's format (R71) and what the fetched literal makes of it. -/
inductive Template where
  | op (i : Instr)
  | d8 (build : Byte → Instr)
  | r8 (build : Byte → Instr)
  | d16 (build : Word → Instr)

/-- The format of a row (R71). -/
def Template.format : Template → Format
  | .op _ => .op
  | .d8 _ => .opD8
  | .r8 _ => .opR8
  | .d16 _ => .opD16

/-- The length in bytes of a format (R71). -/
def Format.length : Format → Nat
  | .op => 1
  | .opD8 => 2
  | .opR8 => 2
  | .opD16 => 3

/-! ## The opcode map of R84: one list per high nibble, one entry per low nibble; `none` is an unadmitted byte or the prefix. -/

/-- Row `0x` of the opcode map. -/
def mapRow0 : List (Option Template) :=
  [
    some (.op .nop), some (.d16 (.ldPairImm .bc)), some (.op .ldIndBCA), some (.op (.incPair .bc)),
    some (.op (.incReg .b)), some (.op (.decReg .b)), some (.d8 (.ldRegImm .b)), none,
    some (.d16 .ldIndImmSP), none, some (.op .ldAIndBC), some (.op (.decPair .bc)),
    some (.op (.incReg .c)), some (.op (.decReg .c)), some (.d8 (.ldRegImm .c)), none ]

/-- Row `1x` of the opcode map. -/
def mapRow1 : List (Option Template) :=
  [
    none, some (.d16 (.ldPairImm .de)), some (.op .ldIndDEA), some (.op (.incPair .de)),
    some (.op (.incReg .d)), some (.op (.decReg .d)), some (.d8 (.ldRegImm .d)), none,
    none, none, some (.op .ldAIndDE), some (.op (.decPair .de)),
    some (.op (.incReg .e)), some (.op (.decReg .e)), some (.d8 (.ldRegImm .e)), none ]

/-- Row `2x` of the opcode map. -/
def mapRow2 : List (Option Template) :=
  [
    none, some (.d16 (.ldPairImm .hl)), some (.op .ldIndHLIncA), some (.op (.incPair .hl)),
    some (.op (.incReg .h)), some (.op (.decReg .h)), some (.d8 (.ldRegImm .h)), none,
    none, none, some (.op .ldAIndHLInc), some (.op (.decPair .hl)),
    some (.op (.incReg .l)), some (.op (.decReg .l)), some (.d8 (.ldRegImm .l)), none ]

/-- Row `3x` of the opcode map. -/
def mapRow3 : List (Option Template) :=
  [
    none, some (.d16 (.ldPairImm .sp)), some (.op .ldIndHLDecA), some (.op (.incPair .sp)),
    none, none, some (.d8 .ldIndHLImm), none,
    none, none, some (.op .ldAIndHLDec), some (.op (.decPair .sp)),
    some (.op (.incReg .a)), some (.op (.decReg .a)), some (.d8 (.ldRegImm .a)), none ]

/-- Row `4x` of the opcode map. -/
def mapRow4 : List (Option Template) :=
  [
    some (.op (.ldRegReg .b .b)), some (.op (.ldRegReg .b .c)), some (.op (.ldRegReg .b .d)), some (.op (.ldRegReg .b .e)),
    some (.op (.ldRegReg .b .h)), some (.op (.ldRegReg .b .l)), some (.op (.ldRegIndHL .b)), some (.op (.ldRegReg .b .a)),
    some (.op (.ldRegReg .c .b)), some (.op (.ldRegReg .c .c)), some (.op (.ldRegReg .c .d)), some (.op (.ldRegReg .c .e)),
    some (.op (.ldRegReg .c .h)), some (.op (.ldRegReg .c .l)), some (.op (.ldRegIndHL .c)), some (.op (.ldRegReg .c .a)) ]

/-- Row `5x` of the opcode map. -/
def mapRow5 : List (Option Template) :=
  [
    some (.op (.ldRegReg .d .b)), some (.op (.ldRegReg .d .c)), some (.op (.ldRegReg .d .d)), some (.op (.ldRegReg .d .e)),
    some (.op (.ldRegReg .d .h)), some (.op (.ldRegReg .d .l)), some (.op (.ldRegIndHL .d)), some (.op (.ldRegReg .d .a)),
    some (.op (.ldRegReg .e .b)), some (.op (.ldRegReg .e .c)), some (.op (.ldRegReg .e .d)), some (.op (.ldRegReg .e .e)),
    some (.op (.ldRegReg .e .h)), some (.op (.ldRegReg .e .l)), some (.op (.ldRegIndHL .e)), some (.op (.ldRegReg .e .a)) ]

/-- Row `6x` of the opcode map. -/
def mapRow6 : List (Option Template) :=
  [
    some (.op (.ldRegReg .h .b)), some (.op (.ldRegReg .h .c)), some (.op (.ldRegReg .h .d)), some (.op (.ldRegReg .h .e)),
    some (.op (.ldRegReg .h .h)), some (.op (.ldRegReg .h .l)), some (.op (.ldRegIndHL .h)), some (.op (.ldRegReg .h .a)),
    some (.op (.ldRegReg .l .b)), some (.op (.ldRegReg .l .c)), some (.op (.ldRegReg .l .d)), some (.op (.ldRegReg .l .e)),
    some (.op (.ldRegReg .l .h)), some (.op (.ldRegReg .l .l)), some (.op (.ldRegIndHL .l)), some (.op (.ldRegReg .l .a)) ]

/-- Row `7x` of the opcode map. -/
def mapRow7 : List (Option Template) :=
  [
    some (.op (.ldIndHLReg .b)), some (.op (.ldIndHLReg .c)), some (.op (.ldIndHLReg .d)), some (.op (.ldIndHLReg .e)),
    some (.op (.ldIndHLReg .h)), some (.op (.ldIndHLReg .l)), some (.op .halt), some (.op (.ldIndHLReg .a)),
    some (.op (.ldRegReg .a .b)), some (.op (.ldRegReg .a .c)), some (.op (.ldRegReg .a .d)), some (.op (.ldRegReg .a .e)),
    some (.op (.ldRegReg .a .h)), some (.op (.ldRegReg .a .l)), some (.op (.ldRegIndHL .a)), some (.op (.ldRegReg .a .a)) ]

/-- Row `Ax` of the opcode map. -/
def mapRowA : List (Option Template) :=
  [
    none, none, none, none,
    none, none, none, none,
    some (.op (.xorReg .b)), some (.op (.xorReg .c)), some (.op (.xorReg .d)), some (.op (.xorReg .e)),
    some (.op (.xorReg .h)), some (.op (.xorReg .l)), some (.op .xorIndHL), some (.op (.xorReg .a)) ]

/-- Row `Cx` of the opcode map. -/
def mapRowC : List (Option Template) :=
  [
    none, none, some (.d16 (.jpCond .nz)), some (.d16 .jpImm),
    none, none, none, none,
    none, none, some (.d16 (.jpCond .z)), none,
    none, none, none, none ]

/-- Row `Dx` of the opcode map. -/
def mapRowD : List (Option Template) :=
  [
    none, none, some (.d16 (.jpCond .nc)), none,
    none, none, none, none,
    none, none, some (.d16 (.jpCond .c)), none,
    none, none, none, none ]

/-- Row `Ex` of the opcode map. -/
def mapRowE : List (Option Template) :=
  [
    none, none, none, none,
    none, none, none, none,
    none, some (.op .jpHL), some (.d16 .ldIndImmA), none,
    none, none, some (.d8 .xorImm), none ]

/-- Row `Fx` of the opcode map. -/
def mapRowF : List (Option Template) :=
  [
    none, none, none, some (.op .di),
    none, none, none, none,
    some (.r8 .ldHLSPImm), some (.op .ldSPHL), some (.d16 .ldAIndImm), some (.op .ei),
    none, none, none, none ]

/-- A row of the opcode map with no admitted byte (8x, 9x, Bx). -/
def mapRowNone : List (Option Template) := List.replicate 16 none

/-- The whole map of R84, row by row. -/
def opcodeMap : List (List (Option Template)) :=
  [ mapRow0, mapRow1, mapRow2, mapRow3, mapRow4, mapRow5, mapRow6, mapRow7,
    mapRowNone, mapRowNone, mapRowA, mapRowNone, mapRowC, mapRowD, mapRowE, mapRowF ]

/-- The prefix byte (R78). -/
def cbPrefixByte : Byte := 0xCB

/-- `lookup(opcode, cbPrefixed)` (R77, R82): the row of the pair. The CB region is empty (R78; 92_eei_decisions.md D25). -/
def lookup (opcode : Byte) (cbPrefixed : Bool) : Option Template :=
  if cbPrefixed then none
  else ((opcodeMap[opcode.toNat / 16]?.getD [])[opcode.toNat % 16]?).join

/-- How many bytes follow the first one: the second byte of a prefixed pair, or the immediate bytes of the row (R70, R71, R81). -/
def bytesAfter (b0 : Byte) : Nat :=
  if b0 = cbPrefixByte then 1
  else
    match lookup b0 false with
    | none => 0
    | some row => row.format.length - 1

/-! ## The decoder over bytes -/

/-- Why the decoder gives no instruction. -/
inductive DecodeReject where
  /-- The pair (opcode, cbPrefixed) has no row (R78, R79). -/
  | noRow (opcode : Byte) (cbPrefixed : Bool)
  /-- The list ends inside the instruction: no case of the machine, whose fetch never runs out of bytes. -/
  | truncated
  deriving DecidableEq, Repr

/-- What the decoder answers: an instruction with the bytes after it, or a rejection by name. -/
inductive Decoded where
  | ok (i : Instr) (rest : List Byte)
  | reject (r : DecodeReject)
  deriving DecidableEq, Repr

/-- The immediate bytes of a row taken from the front of the stream (R76, R77); 16-bit literals have the low byte first. -/
def Template.complete : Template → List Byte → Decoded
  | .op i, rest => .ok i rest
  | .d8 build, v :: rest => .ok (build v) rest
  | .r8 build, v :: rest => .ok (build v) rest
  | .d16 build, l :: h :: rest => .ok (build (pair h l)) rest
  | _, _ => .reject .truncated

/-- Decode after the prefix byte (R78): the CB region is looked up with the next byte, and holds no row. -/
def decodePrefixed : List Byte → Decoded
  | [] => .reject .truncated
  | b1 :: rest =>
    match lookup b1 true with
    | none => .reject (.noRow b1 true)
    | some row => row.complete rest

/-- Decode after an opcode byte that is no prefix (R77, R79). -/
def decodeOpcode (b0 : Byte) (rest : List Byte) : Decoded :=
  match lookup b0 false with
  | none => .reject (.noRow b0 false)
  | some row => row.complete rest

/-- Decode of the first instruction of a byte stream (R77). -/
def decode : List Byte → Decoded
  | [] => .reject .truncated
  | b0 :: rest => if b0 = cbPrefixByte then decodePrefixed rest else decodeOpcode b0 rest

/-- The instruction the decoder reads from an instruction of the opcode table given as one number, its first byte in bits 7..0,
its second in bits 15..8 and its third in bits 23..16; the bits above `nbits` are zero. -/
def decodeTableWord (nbits w : Nat) : Option Instr :=
  let v := w % 2 ^ nbits
  match decode [BitVec.ofNat 8 v, BitVec.ofNat 8 (v / 256), BitVec.ofNat 8 (v / 65536)] with
  | .ok i _ => some i
  | .reject _ => none

/-! ## The encoder -/

/-- The 3-bit register code (R73); code 6 is memory at HL and no register has it. -/
def Reg8.code : Reg8 → Byte
  | .b => 0
  | .c => 1
  | .d => 2
  | .e => 3
  | .h => 4
  | .l => 5
  | .a => 7

/-- The 2-bit pair code (R74). -/
def Reg16.code : Reg16 → Byte
  | .bc => 0
  | .de => 1
  | .hl => 2
  | .sp => 3

/-- The 2-bit condition code (R75). -/
def Cond.code : Cond → Byte
  | .nz => 0
  | .z => 1
  | .nc => 2
  | .c => 3

/-- The opcode byte of an instruction: the pattern column of R84's second table, with the codes of R73 to R75 in their
places (bits 5..3 or 2..0 for a register, bits 5..4 for a pair, bits 4..3 for a condition). -/
def Instr.opcode : Instr → Byte
  | .nop => 0x00
  | .jpImm _ => 0xC3
  | .jpCond cc _ => 0xC2 + 8 * cc.code
  | .jpHL => 0xE9
  | .di => 0xF3
  | .ei => 0xFB
  | .halt => 0x76
  | .xorReg r => 0xA8 + r.code
  | .xorIndHL => 0xAE
  | .xorImm _ => 0xEE
  | .ldRegReg dst src => 0x40 + 8 * dst.code + src.code
  | .ldRegImm dst _ => 0x06 + 8 * dst.code
  | .ldRegIndHL dst => 0x46 + 8 * dst.code
  | .ldIndHLReg src => 0x70 + src.code
  | .ldIndHLImm _ => 0x36
  | .ldPairImm rr _ => 0x01 + 16 * rr.code
  | .ldIndBCA => 0x02
  | .ldIndDEA => 0x12
  | .ldIndHLIncA => 0x22
  | .ldIndHLDecA => 0x32
  | .ldAIndBC => 0x0A
  | .ldAIndDE => 0x1A
  | .ldAIndHLInc => 0x2A
  | .ldAIndHLDec => 0x3A
  | .ldIndImmA _ => 0xEA
  | .ldAIndImm _ => 0xFA
  | .ldIndImmSP _ => 0x08
  | .ldSPHL => 0xF9
  | .ldHLSPImm _ => 0xF8
  | .incReg r => 0x04 + 8 * r.code
  | .decReg r => 0x05 + 8 * r.code
  | .incPair rr => 0x03 + 16 * rr.code
  | .decPair rr => 0x0B + 16 * rr.code

/-- The immediate bytes of an instruction in stream order, a 16-bit literal low byte first (R71, R76). -/
def Instr.immediates : Instr → List Byte
  | .jpImm v | .jpCond _ v | .ldPairImm _ v | .ldIndImmA v | .ldAIndImm v | .ldIndImmSP v => [lo v, hi v]
  | .xorImm v | .ldRegImm _ v | .ldIndHLImm v | .ldHLSPImm v => [v]
  | .nop | .jpHL | .di | .ei | .halt | .xorReg _ | .xorIndHL | .ldRegReg _ _ | .ldRegIndHL _ | .ldIndHLReg _ => []
  | .ldIndBCA | .ldIndDEA | .ldIndHLIncA | .ldIndHLDecA | .ldAIndBC | .ldAIndDE | .ldAIndHLInc | .ldAIndHLDec => []
  | .ldSPHL | .incReg _ | .decReg _ | .incPair _ | .decPair _ => []

/-- The bytes of an instruction, byte 0 first (R71, R84). -/
def encode (i : Instr) : List Byte := i.opcode :: i.immediates

/-- The length of an instruction in bytes (R70). -/
def Instr.length (i : Instr) : Nat := (encode i).length

end Sys2Proof
end

