-- ==== Sys2Proof/Machine/Descriptor.lean ====
section
/-! DEFINITION. The descriptor every instruction decodes to (30_encoding.md R85), in the data model of 40_operands.md R100 and R101. -/

namespace Sys2Proof

/-- The width in bits of a symbol's own value (R101); a condition has none. -/
def Sym.width : Sym → Option Nat
  | .reg8 _ => some 8
  | .imm8 _ => some 8
  | .reg16 _ => some 16
  | .imm16 _ => some 16
  | .addr16 _ => some 16
  | .cond _ => none

/-- The operand width field of R101. For a dereferenced operand it is the width of the address. -/
def Operand.width (o : Operand) : Option Nat := o.sym.width

/-- `Reg r /8`. -/
def opReg8 (r : Reg8) : Operand := { sym := .reg8 r }

/-- `Reg rr /16`. -/
def opReg16 (r : Reg16) : Operand := { sym := .reg16 r }

/-- `Reg rr /16 deref`: the memory at the pair. -/
def opInd (r : Reg16) : Operand := { sym := .reg16 r, deref := true }

/-- `Reg HL /16 deref inc`. -/
def opIndHLInc : Operand := { sym := .reg16 .hl, deref := true, inc := true }

/-- `Reg HL /16 deref dec`. -/
def opIndHLDec : Operand := { sym := .reg16 .hl, deref := true, dec := true }

/-- `Imm8 v /8`. -/
def opImm8 (v : Byte) : Operand := { sym := .imm8 v }

/-- `Imm16 v /16`. -/
def opImm16 (v : Word) : Operand := { sym := .imm16 v }

/-- `Cond cc`. -/
def opCond (cc : Cond) : Operand := { sym := .cond cc }

/-- `Addr16 v /16`: the literal itself, as a jump target. -/
def opAddr (v : Word) : Operand := { sym := .addr16 v }

/-- `Addr16 v /16 deref`: the memory at the literal. -/
def opIndAddr (v : Word) : Operand := { sym := .addr16 v, deref := true }

/-- The mnemonic of each form (R85). -/
def Instr.mnemonic : Instr → Mnemonic
  | .nop => .nop
  | .jpImm _ | .jpCond _ _ | .jpHL => .jp
  | .di => .di
  | .ei => .ei
  | .halt => .halt
  | .xorReg _ | .xorIndHL | .xorImm _ => .xor
  | .ldRegReg _ _ | .ldRegImm _ _ | .ldRegIndHL _ | .ldIndHLReg _ | .ldIndHLImm _ | .ldPairImm _ _ => .ld
  | .ldIndBCA | .ldIndDEA | .ldIndHLIncA | .ldIndHLDecA | .ldAIndBC | .ldAIndDE | .ldAIndHLInc | .ldAIndHLDec => .ld
  | .ldIndImmA _ | .ldAIndImm _ | .ldIndImmSP _ | .ldSPHL | .ldHLSPImm _ => .ld
  | .incReg _ | .incPair _ => .inc
  | .decReg _ | .decPair _ => .dec

/-- The operand list of each form, destination first (R85). -/
def Instr.operands : Instr → List Operand
  | .nop => []
  | .jpImm a16 => [opAddr a16]
  | .jpCond cc a16 => [opCond cc, opAddr a16]
  | .jpHL => [opReg16 .hl]
  | .di => []
  | .ei => []
  | .halt => []
  | .xorReg r => [opReg8 r]
  | .xorIndHL => [opInd .hl]
  | .xorImm d8 => [opImm8 d8]
  | .ldRegReg dst src => [opReg8 dst, opReg8 src]
  | .ldRegImm dst d8 => [opReg8 dst, opImm8 d8]
  | .ldRegIndHL dst => [opReg8 dst, opInd .hl]
  | .ldIndHLReg src => [opInd .hl, opReg8 src]
  | .ldIndHLImm d8 => [opInd .hl, opImm8 d8]
  | .ldPairImm rr d16 => [opReg16 rr, opImm16 d16]
  | .ldIndBCA => [opInd .bc, opReg8 .a]
  | .ldIndDEA => [opInd .de, opReg8 .a]
  | .ldIndHLIncA => [opIndHLInc, opReg8 .a]
  | .ldIndHLDecA => [opIndHLDec, opReg8 .a]
  | .ldAIndBC => [opReg8 .a, opInd .bc]
  | .ldAIndDE => [opReg8 .a, opInd .de]
  | .ldAIndHLInc => [opReg8 .a, opIndHLInc]
  | .ldAIndHLDec => [opReg8 .a, opIndHLDec]
  | .ldIndImmA a16 => [opIndAddr a16, opReg8 .a]
  | .ldAIndImm a16 => [opReg8 .a, opIndAddr a16]
  | .ldIndImmSP a16 => [opIndAddr a16, opReg16 .sp]
  | .ldSPHL => [opReg16 .sp, opReg16 .hl]
  | .ldHLSPImm r8 => [opReg16 .hl, opReg16 .sp, opImm8 r8]
  | .incReg r => [opReg8 r]
  | .decReg r => [opReg8 r]
  | .incPair rr => [opReg16 rr]
  | .decPair rr => [opReg16 rr]

/-- The 8-bit registers a pair write reaches (10_state.md R15). -/
def Reg16.halves : Reg16 → List Reg8
  | .bc => [.b, .c]
  | .de => [.d, .e]
  | .hl => [.h, .l]
  | .sp => []

/-- The 8-bit registers an instruction may write (the first two rows of 10_state.md R28). -/
def Instr.writtenRegs : Instr → List Reg8
  | .xorReg _ | .xorIndHL | .xorImm _ | .ldAIndBC | .ldAIndDE | .ldAIndImm _ => [.a]
  | .ldRegReg dst _ | .ldRegImm dst _ | .ldRegIndHL dst => [dst]
  | .ldPairImm rr _ | .incPair rr | .decPair rr => rr.halves
  | .ldIndHLIncA | .ldIndHLDecA | .ldHLSPImm _ => [.h, .l]
  | .ldAIndHLInc | .ldAIndHLDec => [.a, .h, .l]
  | .incReg r | .decReg r => [r]
  | .nop | .jpImm _ | .jpCond _ _ | .jpHL | .di | .ei | .halt | .ldIndHLReg _ | .ldIndHLImm _ | .ldIndBCA | .ldIndDEA => []
  | .ldIndImmA _ | .ldIndImmSP _ | .ldSPHL => []

/-- `execute`'s returned value (70_reset_and_hazards.md R250): the base cycle cost of the instruction's row, the same whether a
conditional jump is taken or not. No rule reads it. -/
def Instr.cycles (i : Instr) : Nat := Config.cycles i.opcode

/-- The descriptor of R85, never CB-prefixed (R78). -/
def Instr.descriptor (i : Instr) : Descriptor :=
  { mnemonic := i.mnemonic, operands := i.operands, cbPrefixed := false, baseCycles := i.cycles }

end Sys2Proof
end

