-- ==== Sys2Proof/WellFormed.lean ====
section
/-! DEFINITION. Well-formed descriptors (40_operands.md R102) and the operand shape each mnemonic requires (R107). The types of
`Instr` already rule out every operand value without a table row, so an instruction is well-formed when the descriptor it
decodes to is; Laws/PerInstr.lean shows that every one is. -/

namespace Sys2Proof

/-- R100 with 90_conflicts.md C4: at most three operands. -/
def Descriptor.countOk (d : Descriptor) : Bool := decide (d.operands.length ≤ 3)

/-- R102 (a): at most one operand is dereferenced. -/
def Descriptor.derefCountOk (d : Descriptor) : Bool := decide ((d.operands.filter (·.deref)).length ≤ 1)

/-- R102 (b): a tag stands only on a dereferenced HL, and never both tags. -/
def Operand.tagsOk (o : Operand) : Bool :=
  (!(o.inc || o.dec) || (o.sym == .reg16 .hl && o.deref)) && !(o.inc && o.dec)

/-- R102 (c): only BC, DE, HL and an address literal are dereferenced. -/
def Operand.derefOk (o : Operand) : Bool :=
  !o.deref ||
    match o.sym with
    | .reg16 .bc | .reg16 .de | .reg16 .hl | .addr16 _ => true
    | _ => false

/-- Whether an operand's symbol is a condition. -/
def Operand.isCond (o : Operand) : Bool :=
  match o.sym with
  | .cond _ => true
  | _ => false

/-- R102 (d): a condition occurs only as operand 0 of a two-operand JP. -/
def Descriptor.condOk (d : Descriptor) : Bool :=
  match d.mnemonic, d.operands with
  | .jp, [_, o1] => !o1.isCond
  | _, os => os.all fun o => !o.isCond

/-- A jump target of R107: an address literal or a 16-bit register, not dereferenced. -/
def Operand.isTarget (o : Operand) : Bool :=
  !o.deref &&
    match o.sym with
    | .addr16 _ | .reg16 _ => true
    | _ => false

/-- An 8-bit register, not dereferenced. -/
def Operand.isReg8 (o : Operand) : Bool :=
  !o.deref &&
    match o.sym with
    | .reg8 _ => true
    | _ => false

/-- A register, not dereferenced. -/
def Operand.isReg (o : Operand) : Bool :=
  !o.deref &&
    match o.sym with
    | .reg8 _ | .reg16 _ => true
    | _ => false

/-- An immediate of R107, not dereferenced. -/
def Operand.isImm (o : Operand) : Bool :=
  !o.deref &&
    match o.sym with
    | .imm8 _ | .imm16 _ => true
    | _ => false

/-- An 8-bit immediate, not dereferenced. -/
def Operand.isImm8 (o : Operand) : Bool :=
  !o.deref &&
    match o.sym with
    | .imm8 _ => true
    | _ => false

/-- The width of the data an LD moves (R104): the other operand's width when one is dereferenced, and both operands' common
width when none is. -/
def ldWidth (dst src : Operand) : Option Nat :=
  if dst.deref then src.width
  else if src.deref then dst.width
  else if dst.width = src.width then dst.width else none

/-- R107's row for the two-operand LD. -/
def ldShapeOk (dst src : Operand) : Bool :=
  (dst.isReg || dst.deref) && (src.isReg || src.isImm || src.deref) && !(dst.deref && src.deref) && (ldWidth dst src).isSome

/-- The operand shape R107 requires of a mnemonic. Whether a tag makes a shape wrong R107 does not say. DESIGN CHOICE: on Reg HL
and Reg SP of the three-operand LD it does; everywhere else it does not (log entry 21; safe). -/
def shapeOk (m : Mnemonic) (os : List Operand) : Bool :=
  match m, os with
  | .nop, [] | .di, [] | .ei, [] | .halt, [] => true
  | .jp, [t] => t.isTarget
  | .jp, [c, t] => c.isCond && t.isTarget
  | .xor, [v] => v.isReg8 || v.isImm8 || (v.deref && v.sym == .reg16 .hl)
  | .ld, [dst, src] => ldShapeOk dst src
  | .ld, [dst, base, off] => dst == opReg16 .hl && base == opReg16 .sp && off.isImm8
  | .inc, [r] => r.isReg
  | .dec, [r] => r.isReg
  | _, _ => false

/-- A well-formed descriptor: R102 (a) to (d), R107's shape, and no CB prefix (R78). -/
def Descriptor.wellFormed (d : Descriptor) : Bool :=
  d.countOk && d.derefCountOk && d.operands.all Operand.tagsOk && d.operands.all Operand.derefOk && d.condOk &&
    shapeOk d.mnemonic d.operands && !d.cbPrefixed

/-- An instruction is well-formed when its descriptor is. -/
def Instr.wellFormed (i : Instr) : Bool := i.descriptor.wellFormed

end Sys2Proof
end

