-- ==== Sys2Proof/Machine/Operands.lean ====
section
/-! DEFINITION. The OperandResolver (40_operands.md R103 to R108): an operand's value and effective address, write-back, and the
post-increment and post-decrement of HL. -/

namespace Sys2Proof.Machine

/-- `evaluateCondition(cc)` (10_state.md R20). -/
def State.cond (s : State) (cc : Cond) : Bool := evalCond cc s.f

/-- An operand's value: a byte, a word, or a condition's truth. -/
inductive Value where
  | byte (v : Byte)
  | word (v : Word)
  | truth (t : Bool)
  deriving DecidableEq, Repr

/-- The value of a symbol itself (R101, R103). -/
def State.symValue (s : State) : Sym → Value
  | .reg8 r => .byte (s.get8 r)
  | .reg16 r => .word (s.get16 r)
  | .imm8 v => .byte v
  | .imm16 v => .word v
  | .cond cc => .truth (s.cond cc)
  | .addr16 v => .word v

/-- The effective address of a dereferenced operand: the whole 16-bit value of its register or address literal (R103, R108).
DEDUCED: no other symbol has one, an immediate word neither, for which R103's pseudocode has a read at its literal (log entry
21; safe). -/
def State.address (s : State) (o : Operand) : Option Word :=
  match o.sym with
  | .reg16 r => some (s.get16 r)
  | .addr16 v => some v
  | _ => none

/-- `resolve(op, W)` (R103) with the state after it. A dereferenced operand is a memory read of W bits; any other is its symbol's
value, with no bus access. -/
def State.resolve (s : State) (o : Operand) (W : Option Nat) : Except Fault (Value × State) :=
  if o.deref then
    match s.address o, W with
    | some a, some 8 => .ok (.byte (s.read8 a), s.afterRead8 a)
    | some a, some 16 => .ok (.word (s.read16 a), s.afterRead16 a)
    | _, _ => .error .operandShapeError
  else .ok (s.symValue o.sym, s)

/-- `writeBack(op, v, W)` (R105). -/
def State.writeBack (s : State) (o : Operand) (v : Value) (W : Option Nat) : Except Fault State :=
  if o.deref then
    match s.address o, W, v with
    | some a, some 8, .byte b => .ok (s.write8 a b)
    | some a, some 16, .word w => .ok (s.write16 a w)
    | _, _, _ => .error .operandShapeError
  else
    match o.sym, v with
    | .reg8 r, .byte b => .ok (s.set8 r b)
    | .reg16 r, .word w => .ok (s.set16 r w)
    | _, _ => .error .operandShapeError

/-- The post-increment or post-decrement of HL, once, whichever operand carries the tag (R106). It writes no flag. DESIGN CHOICE:
a tag on an operand that is not HL, or not dereferenced, moves HL too, and with both tags HL moves up and then down (log entry
21; unsafe for such a descriptor, which no table row is). -/
def State.postTags (s : State) (os : List Operand) : State :=
  let s1 := if os.any (·.inc) then s.set16 .hl (s.hl + 1) else s
  if os.any (·.dec) then s1.set16 .hl (s1.hl - 1) else s1

end Sys2Proof.Machine
end

