-- ==== Sys2Proof/Machine/Control.lean ====
section
/-! DEFINITION. NOP and the JP family (41_nop_jp.md R120 to R123). In every meaning PC already points past the instruction
(10_state.md R17). -/

namespace Sys2Proof.Machine

/-- `NOP` (R120): no state change. -/
def execNop (s : State) : Host.Outcome State Fault Refusal := .next s

/-- A jump: PC takes the target (R121); no flag is written. -/
def State.jump (s : State) (target : Word) : State := { s with pc := target }

/-- `JP a16` (R121): the target is the literal itself (90_conflicts.md C7). -/
def execJpImm (a16 : Word) (s : State) : Host.Outcome State Fault Refusal := .next (s.jump a16)

/-- `JP cc,a16` (R122): PC is left after the three bytes when the condition is false. -/
def execJpCond (cc : Cond) (a16 : Word) (s : State) : Host.Outcome State Fault Refusal :=
  .next (if s.cond cc then s.jump a16 else s)

/-- `JP HL` (R123): the register's value, no memory read. -/
def execJpHL (s : State) : Host.Outcome State Fault Refusal := .next (s.jump s.hl)

end Sys2Proof.Machine
end

