-- ==== Sys2Proof/Machine/IncDec.lean ====
section
/-! DEFINITION. INC and DEC (45_inc_dec.md R180 to R184). -/

namespace Sys2Proof.Machine

/-- INC r for a value of the parameter `INCDEC8_FLAGS` (R180, R184). -/
def State.inc8 (p : Config.IncDec8Flags) (s : State) (r : Reg8) : State :=
  { s.set8 r (s.get8 r + 1) with f := incFlags p (s.get8 r) s.f }

/-- DEC r for a value of the parameter `INCDEC8_FLAGS` (R181, R184). -/
def State.dec8 (p : Config.IncDec8Flags) (s : State) (r : Reg8) : State :=
  { s.set8 r (s.get8 r - 1) with f := decFlags p (s.get8 r) s.f }

/-- `INC r` (R180), under the value the spec takes for the parameter. -/
def execIncReg (r : Reg8) (s : State) : Host.Outcome State Fault Refusal := .next (s.inc8 Config.incDec8Flags r)

/-- `DEC r` (R181), under the value the spec takes for the parameter. -/
def execDecReg (r : Reg8) (s : State) : Host.Outcome State Fault Refusal := .next (s.dec8 Config.incDec8Flags r)

/-- `INC rr` (R182): no flag is written. -/
def execIncPair (rr : Reg16) (s : State) : Host.Outcome State Fault Refusal := .next (s.set16 rr (s.get16 rr + 1))

/-- `DEC rr` (R183): no flag is written. -/
def execDecPair (rr : Reg16) (s : State) : Host.Outcome State Fault Refusal := .next (s.set16 rr (s.get16 rr - 1))

end Sys2Proof.Machine
end

