-- ==== Sys2Proof/Machine/Load.lean ====
section
/-! DEFINITION. LD (44_ld.md R150 to R169): moves, loads, stores and HL from SP. Only R169 writes flags. -/

namespace Sys2Proof.Machine

/-- `x[HL] <- x[HL] + 1`, the post-increment (40_operands.md R106). -/
def State.incHL (s : State) : State := s.set16 .hl (s.hl + 1)

/-- `x[HL] <- x[HL] - 1`, the post-decrement (R106). -/
def State.decHL (s : State) : State := s.set16 .hl (s.hl - 1)

/-- An 8-bit register loaded from an address: one byte read (R153). -/
def State.load8 (s : State) (dst : Reg8) (addr : Word) : State := (s.afterRead8 addr).set8 dst (s.read8 addr)

/-! ## Register and immediate moves -/

/-- `LD r,r'` (R151). -/
def execLdRegReg (dst src : Reg8) (s : State) : Host.Outcome State Fault Refusal := .next (s.set8 dst (s.get8 src))

/-- `LD r,d8` (R152). -/
def execLdRegImm (dst : Reg8) (d8 : Byte) (s : State) : Host.Outcome State Fault Refusal := .next (s.set8 dst d8)

/-- `LD rr,d16` (R156). -/
def execLdPairImm (rr : Reg16) (d16 : Word) (s : State) : Host.Outcome State Fault Refusal := .next (s.set16 rr d16)

/-- `LD SP,HL` (R168). -/
def execLdSPHL (s : State) : Host.Outcome State Fault Refusal := .next (s.set16 .sp s.hl)

/-! ## Loads and stores through HL -/

/-- `LD r,(HL)` (R153): the address is HL before the destination is written (40_operands.md R109). -/
def execLdRegIndHL (dst : Reg8) (s : State) : Host.Outcome State Fault Refusal := .next (s.load8 dst s.hl)

/-- `LD (HL),r` (R154). -/
def execLdIndHLReg (src : Reg8) (s : State) : Host.Outcome State Fault Refusal := .next (s.write8 s.hl (s.get8 src))

/-- `LD (HL),d8` (R155). -/
def execLdIndHLImm (d8 : Byte) (s : State) : Host.Outcome State Fault Refusal := .next (s.write8 s.hl d8)

/-- `LD (HL+),A` (R159). -/
def execLdIndHLIncA (s : State) : Host.Outcome State Fault Refusal := .next (s.write8 s.hl s.a).incHL

/-- `LD (HL-),A` (R160). -/
def execLdIndHLDecA (s : State) : Host.Outcome State Fault Refusal := .next (s.write8 s.hl s.a).decHL

/-- `LD A,(HL+)` (R163). -/
def execLdAIndHLInc (s : State) : Host.Outcome State Fault Refusal := .next (s.load8 .a s.hl).incHL

/-- `LD A,(HL-)` (R164). -/
def execLdAIndHLDec (s : State) : Host.Outcome State Fault Refusal := .next (s.load8 .a s.hl).decHL

/-! ## Loads and stores of A through BC, DE and an immediate address -/

/-- `LD (BC),A` (R157). -/
def execLdIndBCA (s : State) : Host.Outcome State Fault Refusal := .next (s.write8 (s.get16 .bc) s.a)

/-- `LD (DE),A` (R158). -/
def execLdIndDEA (s : State) : Host.Outcome State Fault Refusal := .next (s.write8 (s.get16 .de) s.a)

/-- `LD A,(BC)` (R161). -/
def execLdAIndBC (s : State) : Host.Outcome State Fault Refusal := .next (s.load8 .a (s.get16 .bc))

/-- `LD A,(DE)` (R162). -/
def execLdAIndDE (s : State) : Host.Outcome State Fault Refusal := .next (s.load8 .a (s.get16 .de))

/-- `LD (a16),A` (R165). -/
def execLdIndImmA (a16 : Word) (s : State) : Host.Outcome State Fault Refusal := .next (s.write8 a16 s.a)

/-- `LD A,(a16)` (R166). -/
def execLdAIndImm (a16 : Word) (s : State) : Host.Outcome State Fault Refusal := .next (s.load8 .a a16)

/-! ## SP forms -/

/-- `LD (a16),SP` (R167): the one 16-bit store of an instruction, little-endian. -/
def execLdIndImmSP (a16 : Word) (s : State) : Host.Outcome State Fault Refusal := .next (s.write16 a16 s.sp)

/-- HL and F from SP plus a signed byte (R169): H and C are only ever set, Z and N cleared. -/
def State.loadHLFromSP (s : State) (base : Word) (r8 : Byte) : State :=
  { s with f := spImmFlags base r8 s.f }.set16 .hl (base + sext16 r8)

/-- `LD HL,SP+r8` (R169). -/
def execLdHLSPImm (r8 : Byte) (s : State) : Host.Outcome State Fault Refusal := .next (s.loadHLFromSP s.sp r8)

end Sys2Proof.Machine
end

