-- ==== Sys2Proof/Machine/System.lean ====
section
/-! DEFINITION. DI, EI and HALT (42_di_ei_halt.md R130 to R133). -/

namespace Sys2Proof.Machine

/-- `DI` (R130): at once. -/
def execDi (s : State) : Host.Outcome State Fault Refusal := .next { s with ime := false }

/-- `EI` (R131): at once, with no delay. -/
def execEi (s : State) : Host.Outcome State Fault Refusal := .next { s with ime := true }

/-- The condition of R133, evaluated on the state HALT executes in. -/
def State.haltBugCase (s : State) : Bool := !s.ime && serviceable s.ifReg s.ieReg != 0#8

/-- `HALT` (R132); the one case the spec gives no successor is refused (R133). -/
def execHalt (s : State) : Host.Outcome State Fault Refusal :=
  if s.haltBugCase then .refused .haltBug else .next { s with halted := true }

end Sys2Proof.Machine
end

