-- ==== Sys2Proof/Machine/Xor.lean ====
section
/-! DEFINITION. XOR (43_xor.md R140 to R143). -/

namespace Sys2Proof.Machine

/-- The operation common to the three forms (R140): A and all four flags are written. -/
def State.xorA (s : State) (v : Byte) : State := { s with a := s.a ^^^ v, f := xorFlags (s.a ^^^ v) s.f }

/-- `XOR r` (R141). -/
def execXorReg (r : Reg8) (s : State) : Host.Outcome State Fault Refusal := .next (s.xorA (s.get8 r))

/-- `XOR (HL)` (R142): one 8-bit read at HL. -/
def execXorIndHL (s : State) : Host.Outcome State Fault Refusal := .next ((s.afterRead8 s.hl).xorA (s.read8 s.hl))

/-- `XOR d8` (R143). -/
def execXorImm (d8 : Byte) (s : State) : Host.Outcome State Fault Refusal := .next (s.xorA d8)

end Sys2Proof.Machine
end

