-- ==== Sys2Proof/Machine/Dispatch.lean ====
section
/-! DEFINITION. `execute` of the ExecutionEngine (30_encoding.md R77): one meaning per instruction. PC already points past the
instruction in the state it takes (10_state.md R17). -/

namespace Sys2Proof.Machine

def exec (i : Instr) (s : State) : Host.Outcome State Fault Refusal :=
  match i with
  | .nop => Sys2Proof.Machine.execNop s
  | .jpImm a16 => Sys2Proof.Machine.execJpImm a16 s
  | .jpCond cc a16 => Sys2Proof.Machine.execJpCond cc a16 s
  | .jpHL => Sys2Proof.Machine.execJpHL s
  | .di => Sys2Proof.Machine.execDi s
  | .ei => Sys2Proof.Machine.execEi s
  | .halt => Sys2Proof.Machine.execHalt s
  | .xorReg r => Sys2Proof.Machine.execXorReg r s
  | .xorIndHL => Sys2Proof.Machine.execXorIndHL s
  | .xorImm d8 => Sys2Proof.Machine.execXorImm d8 s
  | .ldRegReg dst src => Sys2Proof.Machine.execLdRegReg dst src s
  | .ldRegImm dst d8 => Sys2Proof.Machine.execLdRegImm dst d8 s
  | .ldRegIndHL dst => Sys2Proof.Machine.execLdRegIndHL dst s
  | .ldIndHLReg src => Sys2Proof.Machine.execLdIndHLReg src s
  | .ldIndHLImm d8 => Sys2Proof.Machine.execLdIndHLImm d8 s
  | .ldPairImm rr d16 => Sys2Proof.Machine.execLdPairImm rr d16 s
  | .ldIndBCA => Sys2Proof.Machine.execLdIndBCA s
  | .ldIndDEA => Sys2Proof.Machine.execLdIndDEA s
  | .ldIndHLIncA => Sys2Proof.Machine.execLdIndHLIncA s
  | .ldIndHLDecA => Sys2Proof.Machine.execLdIndHLDecA s
  | .ldAIndBC => Sys2Proof.Machine.execLdAIndBC s
  | .ldAIndDE => Sys2Proof.Machine.execLdAIndDE s
  | .ldAIndHLInc => Sys2Proof.Machine.execLdAIndHLInc s
  | .ldAIndHLDec => Sys2Proof.Machine.execLdAIndHLDec s
  | .ldIndImmA a16 => Sys2Proof.Machine.execLdIndImmA a16 s
  | .ldAIndImm a16 => Sys2Proof.Machine.execLdAIndImm a16 s
  | .ldIndImmSP a16 => Sys2Proof.Machine.execLdIndImmSP a16 s
  | .ldSPHL => Sys2Proof.Machine.execLdSPHL s
  | .ldHLSPImm r8 => Sys2Proof.Machine.execLdHLSPImm r8 s
  | .incReg r => Sys2Proof.Machine.execIncReg r s
  | .decReg r => Sys2Proof.Machine.execDecReg r s
  | .incPair rr => Sys2Proof.Machine.execIncPair rr s
  | .decPair rr => Sys2Proof.Machine.execDecPair rr s

end Sys2Proof.Machine
end

