-- ==== Sys2Proof/Machine/Env.lean ====
section
/-! DEFINITION. The environment's moves between core operations (20_memory.md R59; 92_eei_decisions.md D11, D12; log entry 5). -/

namespace Sys2Proof.Machine

/-- One move: a request bit set and latched (60_exceptions.md R207), IF or IE changed by the platform (20_memory.md R55), or a
byte behind the bus changed (R59), which at a platform address is the platform's to answer. -/
def State.envMove (s : State) : EnvMove → State
  | .request src => { s with ifReg := s.ifReg ||| src.mask }
  | .setIF v => { s with ifReg := v }
  | .setIE v => { s with ieReg := v }
  | .setMem addr v => s.access (.outside addr v)

/-- A batch of moves, in order. -/
def State.envMoves : List EnvMove → State → State
  | [], s => s
  | m :: ms, s => State.envMoves ms (s.envMove m)

/-- A boundary between two core operations: the oldest pending batch is taken off and made. With none pending nothing happens. -/
def State.boundary (s : State) : State :=
  match s.env with
  | [] => s
  | batch :: rest => State.envMoves batch { s with env := rest }

end Sys2Proof.Machine
end

