-- ==== Sys2Proof/Machine/Tick.lean ====
section
/-! DEFINITION. Fetch and decode of one instruction from memory (30_encoding.md R77 to R79) and the tick, one iteration of the
driver (60_exceptions.md R220 to R222). -/

namespace Sys2Proof.Machine

/-- What fetch and decode answer: an instruction with PC past it, or the fatal error with PC past the bytes fetched. -/
inductive Fetched where
  | instr (i : Instr) (s : State)
  | fatal (f : Fault) (s : State)
  deriving DecidableEq, Repr

/-- The immediate of a row fetched at PC (R77): one `Fetch8`, one `Fetch16`, or none. -/
def State.fetchImmediate (s : State) : Template → Fetched
  | .op i => .instr i s
  | .d8 build => .instr (build s.fetch8.1) s.fetch8.2
  | .r8 build => .instr (build s.fetch8.1) s.fetch8.2
  | .d16 build => .instr (build s.fetch16.1) s.fetch16.2

/-- What follows the prefix byte (R77, R78): the true opcode byte is fetched and looked up in the CB region. -/
def State.fetchPrefixed (s : State) : Fetched :=
  match lookup s.fetch8.1 true with
  | none => .fatal (.decodeError s.fetch8.1 true) s.fetch8.2
  | some row => s.fetch8.2.fetchImmediate row

/-- Fetch and decode at PC (R77): the opcode byte, the byte after a prefix, the lookup, the immediate. DecodeError comes after
the byte or bytes looked up are fetched and before any immediate is (R78, R79, R201). -/
def State.fetchInstr (s : State) : Fetched :=
  if s.fetch8.1 = cbPrefixByte then s.fetch8.2.fetchPrefixed
  else
    match lookup s.fetch8.1 false with
    | none => .fatal (.decodeError s.fetch8.1 false) s.fetch8.2
    | some row => s.fetch8.2.fetchImmediate row

/-- One instruction: fetch, decode, execute (00_scope.md R8). A fatal error is recorded in the state reached (R204). -/
def State.instruction (s : State) : Host.Outcome State Fault Refusal :=
  match s.fetchInstr with
  | .instr i s1 => exec i s1
  | .fatal f s1 => .next (s1.raiseFatal f)

/-- The rest of a tick after its instruction, or all of it when halted: the environment's boundary, the check, the boundary
after it (R220; 20_memory.md R59). -/
def State.finishTick (s : State) : State := s.boundary.check.1.boundary

/-- One tick (R220). In a state with a fatal error no operation happens: there is no next state (R204). While halted nothing is
fetched (R222). After an instruction that raised a fatal error there is no check. -/
def State.tick (s : State) : Host.Outcome State Fault Refusal :=
  match s.fatal with
  | some f => .fault f
  | none =>
    if s.halted then .next s.finishTick
    else
      match s.instruction with
      | .next s1 => if s1.fatal.isSome then .next s1 else .next s1.finishTick
      | .fault f => .fault f
      | .refused r => .refused r

/-- Bytes stored at consecutive addresses, modulo 2^16. -/
def State.placeBytes : List Byte → Word → State → State
  | [], _, s => s
  | b :: bs, at_, s => State.placeBytes bs (at_ + 1) (s.write8 at_ b)

/-- An instruction of the opcode table, given as one number (`decodeTableWord`), placed at PC in a core that will fetch there: not
halted, with no fatal error, and with flat RAM under the three bytes. -/
def State.placeInstruction (s : State) (nbits w : Nat) : State :=
  let v := w % 2 ^ nbits
  State.placeBytes [BitVec.ofNat 8 v, BitVec.ofNat 8 (v / 256), BitVec.ofNat 8 (v / 65536)] s.pc
    { s with halted := false, fatal := none, platform := s.platform.filter fun r => !(r.has s.pc || r.has (s.pc + 1) ||
      r.has (s.pc + 2)) }

end Sys2Proof.Machine
end

