-- ==== Sys2Proof/Machine/Step.lean ====
section
/-! DEFINITION. One step of the machine is one tick (60_exceptions.md R220; 00_scope.md R8). -/

namespace Sys2Proof.Machine

/-- One step: one tick. -/
def step (s : State) : Host.Outcome State Fault Refusal := s.tick

/-- The state with an instruction of the opcode table stored where `step` fetches its next one (at PC), not halted and with no
fatal error, so that the very next step runs it. -/
def State.withFetchWord (s : State) (nbits w : Nat) : State := s.placeInstruction nbits w

end Sys2Proof.Machine
end

