-- ==== Sys2Proof/Machine/Bus.lean ====
section
/-! DEFINITION. The bus accesses of the core in their order (20_memory.md R50, R51, R53, R57): what one tick reads and writes. `o`
is the order taken for a word of which no more than one byte is the platform's, where both orders do the same. It is a view of
the tick for statements about the bus; `step` does not use it. -/

namespace Sys2Proof.Machine

/-- The two reads of a 16-bit read at an address (R42, R51). -/
def read16Accesses (o : Config.WordAccessOrder) (a : Word) : List Config.BusEvent :=
  match o with
  | .loFirst => [.read a, .read (a + 1)]
  | .hiFirst => [.read (a + 1), .read a]

/-- The two writes of a 16-bit write at an address (R43, R51). -/
def write16Accesses (o : Config.WordAccessOrder) (a v : Word) : List Config.BusEvent :=
  match o with
  | .loFirst => [.write a (lo v), .write (a + 1) (hi v)]
  | .hiFirst => [.write (a + 1) (hi v), .write a (lo v)]

/-- The immediate reads of a format whose first immediate byte is at an address (R53 step 3). -/
def immediateAccesses (o : Config.WordAccessOrder) (a : Word) : Format → List Config.BusEvent
  | .op => []
  | .opD8 => [.read a]
  | .opR8 => [.read a]
  | .opD16 => read16Accesses o a

/-- The reads of fetch and decode at PC (R53 steps 1 to 3). -/
def State.fetchAccesses (o : Config.WordAccessOrder) (s : State) : List Config.BusEvent :=
  .read s.pc ::
    if s.read8 s.pc = cbPrefixByte then [.read (s.pc + 1)]
    else
      match lookup (s.read8 s.pc) false with
      | none => []
      | some row => immediateAccesses ((s.afterRead8 s.pc).wordOrder o (s.pc + 1)) (s.pc + 1) row.format

/-- The data accesses of an instruction in the state it executes in (R50, R53 steps 4 and 5). -/
def State.dataAccesses (o : Config.WordAccessOrder) (s : State) : Instr → List Config.BusEvent
  | .xorIndHL => [.read s.hl]
  | .ldRegIndHL _ => [.read s.hl]
  | .ldIndHLReg src => [.write s.hl (s.get8 src)]
  | .ldIndHLImm d8 => [.write s.hl d8]
  | .ldIndBCA => [.write (s.get16 .bc) s.a]
  | .ldIndDEA => [.write (s.get16 .de) s.a]
  | .ldIndHLIncA => [.write s.hl s.a]
  | .ldIndHLDecA => [.write s.hl s.a]
  | .ldAIndBC => [.read (s.get16 .bc)]
  | .ldAIndDE => [.read (s.get16 .de)]
  | .ldAIndHLInc => [.read s.hl]
  | .ldAIndHLDec => [.read s.hl]
  | .ldIndImmA a16 => [.write a16 s.a]
  | .ldAIndImm a16 => [.read a16]
  | .ldIndImmSP a16 => write16Accesses (s.wordOrder o a16) a16 s.sp
  | .nop => []
  | .jpImm _ => []
  | .jpCond _ _ => []
  | .jpHL => []
  | .di => []
  | .ei => []
  | .halt => []
  | .xorReg _ => []
  | .xorImm _ => []
  | .ldRegReg _ _ => []
  | .ldRegImm _ _ => []
  | .ldPairImm _ _ => []
  | .ldSPHL => []
  | .ldHLSPImm _ => []
  | .incReg _ => []
  | .decReg _ => []
  | .incPair _ => []
  | .decPair _ => []

/-- The accesses of a check (R53): the two writes of one push when it dispatches, none otherwise. -/
def State.checkAccesses (o : Config.WordAccessOrder) (s : State) : List Config.BusEvent :=
  match select s.ifReg s.ieReg s.ime with
  | none => []
  | some _ => write16Accesses (s.wordOrder o (s.sp - 2)) (s.sp - 2) s.pc

/-- The core's accesses of one tick, in order (R53, R57). None with a fatal error; while halted only the check's (R222). -/
def State.tickAccesses (o : Config.WordAccessOrder) (s : State) : List Config.BusEvent :=
  match s.fatal with
  | some _ => []
  | none =>
    if s.halted then s.boundary.checkAccesses o
    else
      match s.fetchInstr with
      | .fatal _ _ => s.fetchAccesses o
      | .instr i s1 =>
        s.fetchAccesses o ++ s1.dataAccesses o i ++
          match exec i s1 with
          | .next s2 => s2.boundary.checkAccesses o
          | .fault _ => []
          | .refused _ => []

end Sys2Proof.Machine
end

