-- ==== Sys2Proof/Machine/Engine.lean ====
section
/-! DEFINITION. The ExecutionEngine as the source describes it (00_scope.md R2; 40_operands.md R103 to R107): a handler per
mnemonic over the resolver, working on descriptors as data and raising the two fatal errors no table row reaches
(60_exceptions.md R202, R203). Every handler with operands ends with their tags (40_operands.md R106). `exec` states the
instruction rules directly; the two agree on every row of R85. -/

namespace Sys2Proof.Machine

/-- `raise OperandShapeError` (R202). -/
def shapeError (s : State) : Host.Outcome State Fault Refusal := .next (s.raiseFatal .operandShapeError)

/-- NOP's handler (41_nop_jp.md R120). -/
def handleNop (s : State) : List Operand → Host.Outcome State Fault Refusal
  | [] => .next s
  | _ => shapeError s

/-- DI's handler (42_di_ei_halt.md R130). -/
def handleDi (s : State) : List Operand → Host.Outcome State Fault Refusal
  | [] => .next { s with ime := false }
  | _ => shapeError s

/-- EI's handler (R131). -/
def handleEi (s : State) : List Operand → Host.Outcome State Fault Refusal
  | [] => .next { s with ime := true }
  | _ => shapeError s

/-- HALT's handler (R132, R133). -/
def handleHalt (s : State) : List Operand → Host.Outcome State Fault Refusal
  | [] =>
    if s.ime = false ∧ s.ifReg &&& s.ieReg &&& 0x1F ≠ 0 then .refused .haltBug
    else .next { s with halted := true }
  | _ => shapeError s

/-- JP's handler (41_nop_jp.md R121 to R123): with two operands the first is a condition. -/
def handleJp (s : State) : List Operand → Host.Outcome State Fault Refusal
  | [t] =>
    match s.resolve t none with
    | .ok (.word w, s1) => .next (State.postTags { s1 with pc := w } [t])
    | _ => shapeError s
  | [c, t] =>
    match s.resolve c none, s.resolve t none with
    | .ok (.truth true, _), .ok (.word w, _) => .next (State.postTags { s with pc := w } [c, t])
    | .ok (.truth false, _), .ok (.word _, _) => .next (s.postTags [c, t])
    | _, _ => shapeError s
  | _ => shapeError s

/-- XOR's handler (43_xor.md R140): the operand is read 8 bits wide, since the destination is A (40_operands.md R104). -/
def handleXor (s : State) : List Operand → Host.Outcome State Fault Refusal
  | [o] =>
    match s.resolve o (some 8) with
    | .ok (.byte v, s1) =>
      let res := s.a ^^^ v
      let f1 := if res = 0 then setFlag .z s.f else clearFlag .z s.f
      .next (State.postTags { s1 with a := res, f := clearFlag .c (clearFlag .h (clearFlag .n f1)) } [o])
    | _ => shapeError s
  | _ => shapeError s

/-- The two-operand LD (44_ld.md R150): resolve, write back, then the tags of any operand (40_operands.md R106). -/
def handleLd2 (s : State) (dst src : Operand) : Host.Outcome State Fault Refusal :=
  match s.resolve src (ldWidth dst src) with
  | .error f => .next (s.raiseFatal f)
  | .ok (v, s1) =>
    match s1.writeBack dst v (ldWidth dst src) with
    | .error f => .next (s1.raiseFatal f)
    | .ok s2 => .next (s2.postTags [dst, src])

/-- The three-operand LD (R169): flags, then the destination. -/
def handleLd3 (s : State) (dst base off : Operand) : Host.Outcome State Fault Refusal :=
  match s.resolve base none, s.resolve off none with
  | .ok (.word w, _), .ok (.byte r8, _) =>
    match { s with f := spImmFlags w r8 s.f }.writeBack dst (.word (w + sext16 r8)) none with
    | .ok s1 => .next (s1.postTags [dst, base, off])
    | .error f => .next (s.raiseFatal f)
  | _, _ => shapeError s

/-- LD's handler. -/
def handleLd (s : State) : List Operand → Host.Outcome State Fault Refusal
  | [dst, src] => handleLd2 s dst src
  | [dst, base, off] => handleLd3 s dst base off
  | _ => shapeError s

/-- The common shape of INC's and DEC's handlers (45_inc_dec.md R180 to R183): register-only; the 8-bit forms write the flags
that `flags` gives from the old value. -/
def handleStep (s : State) (byteStep : Byte → Byte) (wordStep : Word → Word) (flags : Byte → Byte → Byte) :
    List Operand → Host.Outcome State Fault Refusal
  | [r] =>
    match s.resolve r none with
    | .ok (.byte old, _) =>
      match s.writeBack r (.byte (byteStep old)) none with
      | .ok s1 => .next (State.postTags { s1 with f := flags old s1.f } [r])
      | .error f => .next (s.raiseFatal f)
    | .ok (.word old, _) =>
      match s.writeBack r (.word (wordStep old)) none with
      | .ok s1 => .next (s1.postTags [r])
      | .error f => .next (s.raiseFatal f)
    | _ => shapeError s
  | _ => shapeError s

/-- The handler of a mnemonic, if it has one (R203: every mnemonic of the closed set has). -/
def handler (s : State) : Mnemonic → Option (List Operand → Host.Outcome State Fault Refusal)
  | .nop => some (handleNop s)
  | .jp => some (handleJp s)
  | .di => some (handleDi s)
  | .ei => some (handleEi s)
  | .halt => some (handleHalt s)
  | .xor => some (handleXor s)
  | .ld => some (handleLd s)
  | .inc => some (handleStep s (· + 1) (· + 1) (incFlags Config.incDec8Flags))
  | .dec => some (handleStep s (· - 1) (· - 1) (decFlags Config.incDec8Flags))

/-- `execute(descriptor)`: UnimplementedMnemonic without a handler (R203), OperandShapeError when the operands are not of the
shape R107 requires (R202), else the handler. -/
def execDescriptor (d : Descriptor) (s : State) : Host.Outcome State Fault Refusal :=
  match handler s d.mnemonic with
  | none => .next (s.raiseFatal .unimplementedMnemonic)
  | some h => if shapeOk d.mnemonic d.operands then h d.operands else shapeError s

end Sys2Proof.Machine
end

