-- ==== Sys2Proof/Safety.lean ====
section
/-! DEFINITION. The terms in which claims speak of a run: the state invariant, a running core, the cases that stop it, and the
runs of 70_reset_and_hazards.md R252. -/

namespace Sys2Proof.Machine

/-- The invariant: the low nibble of F is zero (10_state.md R13) and memory is in its canonical form. -/
abbrev State.Inv (s : State) : Prop := s.f &&& 0x0F = 0 ∧ s.mem.wf = true

/-- The core performs operations: no fatal error (60_exceptions.md R204). -/
abbrev State.Running (s : State) : Prop := s.fatal = none

/-- Some source is both pending and enabled (60_exceptions.md R208). -/
abbrev State.HasServiceable (s : State) : Prop := serviceable s.ifReg s.ieReg ≠ 0#8

/-- The wait of R252 (b): halted, nothing serviceable and no environment move pending. -/
abbrev State.Waiting (s : State) : Prop := s.fatal = none ∧ s.halted = true ∧ ¬ s.HasServiceable ∧ s.env = []

/-- The bytes fetch and decode take at PC, in the order of the stream: the first byte, and as many more as it calls for
(30_encoding.md R77, R81). On flat RAM they are the bytes of memory there. -/
def State.bytesAtPC (s : State) : List Byte :=
  let s1 := s.afterRead8 s.pc
  s.read8 s.pc ::
    match bytesAfter (s.read8 s.pc) with
    | 0 => []
    | 1 => [s1.read8 (s.pc + 1)]
    | _ => [lo (s1.read16 (s.pc + 1)), hi (s1.read16 (s.pc + 1))]

/-- The state after those bytes are fetched: PC past them, and the platform has seen the reads. -/
def State.afterFetch (s : State) : State :=
  { s with pc := s.pc + BitVec.ofNat 16 s.bytesAtPC.length, busLog := (s.replay (s.fetchAccesses .loFirst)).busLog }

/-- Every 8-bit register but the listed ones is as before. -/
def KeepsRegs8 (written : List Reg8) (s t : State) : Prop := ∀ r, r ∉ written → t.get8 r = s.get8 r

/-- Every byte of flat RAM but those at the listed addresses reads as before. -/
def KeepsMemory (written : List Word) (s t : State) : Prop :=
  ∀ a, a ∉ written → s.onPlatform a = false → t.read8 a = s.read8 a

/-- A byte written at an address: flat RAM holds it. What it means at a platform address is the platform's, which has seen it. -/
def Stored (a : Word) (v : Byte) (s t : State) : Prop := s.onPlatform a = false → t.read8 a = v

/-- The bus has seen exactly these accesses, in order: the platform's history has those at its addresses put in front. -/
def BusSaw (xs : List Config.BusEvent) (s t : State) : Prop := t.busLog = (s.replay xs).busLog

/-- IME, IF, IE, `halted`, `fatal`, the extent of the platform and the environment's pending moves are as before. -/
def KeepsSystem (s t : State) : Prop :=
  t.ime = s.ime ∧ t.ifReg = s.ifReg ∧ t.ieReg = s.ieReg ∧ t.halted = s.halted ∧ t.fatal = s.fatal ∧
    t.platform = s.platform ∧ t.env = s.env

/-- Each flag of F has the value given, and F's low nibble is as before. -/
def FlagsAre (z n h c : Bool) (s t : State) : Prop :=
  testFlag .z t.f = z ∧ testFlag .n t.f = n ∧ testFlag .h t.f = h ∧ testFlag .c t.f = c ∧ t.f &&& 0x0F = s.f &&& 0x0F

/-- States reached in a number of ticks (R252): each tick answers a next state. -/
inductive Reaches : State → Nat → State → Prop where
  | refl (s : State) : Reaches s 0 s
  | step {s t u : State} {n : Nat} (first : Sys2Proof.Machine.step s = .next t) (rest : Reaches t n u) : Reaches s (n + 1) u

end Sys2Proof.Machine
end

