-- ==== Sys2Proof/Certificates/Slice0/Obligations.lean ====
section
/-! DEFINITION. The statements about the machine, each a rule of the spec or what follows from its rules (OBLIGATIONS.json). -/

open Sys2Proof Sys2Proof.Machine

/-! ## Encoding and decode -/

/-- For every instruction, at every value of its operands, decode of its bytes gives it back and leaves what follows. The byte
values are the spec's general knowledge (93_implementation_defined.md G1 to G5; log entry 9). -/
def Obligations.DecodeOfEncodeIsTheInstruction : Prop :=
  ∀ (i : Instr) (rest : List Byte), decode (encode i ++ rest) = .ok i rest

/-- The other direction: bytes that decode to an instruction are that instruction's encoding, so each instruction has one
encoding (log entry 9). -/
def Obligations.DecodedBytesAreTheEncoding : Prop :=
  ∀ (bs : List Byte) (i : Instr) (rest : List Byte), decode bs = .ok i rest → bs = encode i ++ rest

/-- Words of the spec's rules decode to the instructions they stand for, one of each family (log entry 9). -/
def Obligations.SpecWordsDecode : Prop :=
  decode [0x00] = .ok .nop [] ∧ decode [0xC3, 0x50, 0x01] = .ok (.jpImm 0x0150) [] ∧
  decode [0xCA, 0x00, 0x20] = .ok (.jpCond .z 0x2000) [] ∧ decode [0x76] = .ok .halt [] ∧
  decode [0xEE, 0x3C] = .ok (.xorImm 0x3C) [] ∧ decode [0x01, 0x34, 0x12] = .ok (.ldPairImm .bc 0x1234) [] ∧
  decode [0x41] = .ok (.ldRegReg .b .c) [] ∧ decode [0x08, 0x00, 0xC1] = .ok (.ldIndImmSP 0xC100) [] ∧
  decode [0xF8, 0xFF] = .ok (.ldHLSPImm 0xFF) [] ∧ decode [0x3D] = .ok (.decReg .a) [] ∧
  decode [0x33] = .ok (.incPair .sp) []

/-- The 126 bytes of 30_encoding.md R86 and every byte after the prefix have no row, and no other byte is without one. The
choice of the admitted set is the spec's own (92_eei_decisions.md D1, D25). -/
def Obligations.UnadmittedBytesAreRejected : Prop :=
  (∀ (b : Byte) (rest : List Byte), b ≠ 0xCB →
    (decode (b :: rest) = .reject (.noRow b false) ↔
      b.toNat ∈ [0x07, 0x09, 0x0F, 0x10, 0x17, 0x18, 0x19, 0x1F, 0x20, 0x27, 0x28, 0x29, 0x2F, 0x30, 0x34, 0x35, 0x37, 0x38,
          0x39, 0x3F] ++ (List.range 40).map (0x80 + ·) ++ (List.range 16).map (0xB0 + ·) ++
        [0xC0, 0xC1, 0xC4, 0xC5, 0xC6, 0xC7, 0xC8, 0xC9, 0xCC, 0xCD, 0xCE, 0xCF, 0xD0, 0xD1, 0xD3, 0xD4, 0xD5, 0xD6, 0xD7,
          0xD8, 0xD9, 0xDB, 0xDC, 0xDD, 0xDE, 0xDF, 0xE0, 0xE1, 0xE2, 0xE3, 0xE4, 0xE5, 0xE6, 0xE7, 0xE8, 0xEB, 0xEC, 0xED,
          0xEF, 0xF0, 0xF1, 0xF2, 0xF4, 0xF5, 0xF6, 0xF7, 0xFC, 0xFD, 0xFE, 0xFF])) ∧
  ∀ (b : Byte) (rest : List Byte), decode (0xCB :: b :: rest) = .reject (.noRow b true)

/-- The length of an instruction is 1, 2 or 3 and is known from its first byte alone (30_encoding.md R70, R81). -/
def Obligations.FirstByteFixesTheLength : Prop :=
  ∀ (b : Byte) (r₁ r₂ rest₁ rest₂ : List Byte) (i₁ i₂ : Instr),
    decode (b :: r₁) = .ok i₁ rest₁ → decode (b :: r₂) = .ok i₂ rest₂ →
      i₁.length = i₂.length ∧ i₁.length = bytesAfter b + 1 ∧ 1 ≤ i₁.length ∧ i₁.length ≤ 3 ∧
        (b :: r₁).length = i₁.length + rest₁.length

/-! ## Registers and flags -/

/-- R15: a pair is its two halves; a pair write is two 8-bit writes; a write of one half changes that half of the pair and nothing
else. That the first letter is the high half of DE, HL and AF too, and that a write to F drops the low nibble, are the spec's own
choices (92_eei_decisions.md D21, D18; log entry 14). -/
def Obligations.PairsHaveNoStorageOfTheirOwn : Prop :=
  ∀ (s : State) (w : Word) (v : Byte),
    (s.get16 .bc = pair s.b s.c ∧ s.get16 .de = pair s.d s.e ∧ s.get16 .hl = pair s.h s.l ∧ s.getAF = pair s.a s.f) ∧
    (s.set16 .bc w = (s.set8 .b (hi w)).set8 .c (lo w) ∧ s.set16 .de w = (s.set8 .d (hi w)).set8 .e (lo w) ∧
      s.set16 .hl w = (s.set8 .h (hi w)).set8 .l (lo w) ∧ s.setAF w = (s.set8 .a (hi w)).setF (lo w)) ∧
    ((s.set16 .bc w).get16 .bc = w ∧ (s.set16 .de w).get16 .de = w ∧ (s.set16 .hl w).get16 .hl = w) ∧
    (hi ((s.set8 .b v).get16 .bc) = v ∧ lo ((s.set8 .b v).get16 .bc) = s.c) ∧
    (hi ((s.set8 .c v).get16 .bc) = s.b ∧ lo ((s.set8 .c v).get16 .bc) = v) ∧
    (hi ((s.set8 .d v).get16 .de) = v ∧ lo ((s.set8 .d v).get16 .de) = s.e) ∧
    (hi ((s.set8 .e v).get16 .de) = s.d ∧ lo ((s.set8 .e v).get16 .de) = v) ∧
    (hi ((s.set8 .h v).get16 .hl) = v ∧ lo ((s.set8 .h v).get16 .hl) = s.l) ∧
    (hi ((s.set8 .l v).get16 .hl) = s.h ∧ lo ((s.set8 .l v).get16 .hl) = v) ∧
    (hi (s.set8 .a v).getAF = v ∧ lo (s.set8 .a v).getAF = s.f) ∧
    (hi (s.setF v).getAF = s.a ∧ lo (s.setF v).getAF = v &&& 0xF0) ∧
    (∀ r, KeepsRegs8 [r] s (s.set8 r v) ∧ (s.set8 r v).f = s.f ∧ (s.set8 r v).sp = s.sp ∧ (s.set8 r v).pc = s.pc) ∧
    KeepsRegs8 [] s (s.setF v) ∧ (s.setF v).sp = s.sp ∧ (s.setF v).pc = s.pc

/-- R19: setting, clearing and testing a flag each touch one bit of F and leave the other seven, so the low nibble stays. -/
def Obligations.FlagOperationsTouchOneBit : Prop :=
  ∀ (fl : Flag) (f : Byte),
    testFlag fl (setFlag fl f) = true ∧ testFlag fl (clearFlag fl f) = false ∧
    (∀ k, k < 8 → (fl.mask).getLsbD k = false →
      (setFlag fl f).getLsbD k = f.getLsbD k ∧ (clearFlag fl f).getLsbD k = f.getLsbD k) ∧
    (∀ g, g ≠ fl → testFlag g (setFlag fl f) = testFlag g f ∧ testFlag g (clearFlag fl f) = testFlag g f) ∧
    setFlag fl f &&& 0x0F = f &&& 0x0F ∧ clearFlag fl f &&& 0x0F = f &&& 0x0F

/-- R20: each condition is true exactly when its flag has the stated value. Which bit is which flag is the spec's own reading
(92_eei_decisions.md D20); it is not used here. -/
def Obligations.ConditionsReadTheirFlag : Prop :=
  ∀ s : State,
    (s.cond .z = true ↔ testFlag .z s.f = true) ∧ (s.cond .nz = true ↔ testFlag .z s.f = false) ∧
    (s.cond .c = true ↔ testFlag .c s.f = true) ∧ (s.cond .nc = true ↔ testFlag .c s.f = false)

/-- The flags' bits, and what a whole-byte write to F stores (10_state.md R12, R13; the spec's own choices,
92_eei_decisions.md D18, D20). -/
def Obligations.WholeByteWriteToFDropsTheLowNibble : Prop :=
  ∀ (s : State) (v : Byte) (w : Word),
    (testFlag .z s.f = s.f.getLsbD 7 ∧ testFlag .n s.f = s.f.getLsbD 6 ∧ testFlag .h s.f = s.f.getLsbD 5 ∧
      testFlag .c s.f = s.f.getLsbD 4) ∧
    (s.setF v).f &&& 0x0F = 0 ∧ (s.setF v).f &&& 0xF0 = v &&& 0xF0 ∧
    (s.setAF w).f &&& 0x0F = 0 ∧ (s.setAF w).f &&& 0xF0 = lo w &&& 0xF0 ∧ (s.setAF w).a = hi w

/-! ## The bus, fetch and the stack -/

/-- R42 and R43 on flat RAM (log entry 8): a 16-bit read takes the low byte from the address and the high byte from the next one,
and a 16-bit write puts them there and nowhere else, whichever byte comes first. That the next address wraps (92_eei_decisions.md
D9; log entry 13) and that the RAM reads back (D26) are the spec's own choices. -/
def Obligations.WordAccessesAreTwoLittleEndianBytes : Prop :=
  ∀ (s : State) (o : Config.WordAccessOrder) (a v : Word), s.mem.wf = true →
    (s.onPlatform a = false → s.onPlatform (a + 1) = false →
      (lo (s.read16 a) = s.read8 a ∧ hi (s.read16 a) = s.read8 (a + 1) ∧ s.read16In o a = s.read16 a ∧
        s.afterRead16In o a = s ∧ s.afterRead16 a = s) ∧
      (s.write16In o a v = s.write16 a v ∧ (s.write16 a v).read8 a = lo v ∧ (s.write16 a v).read8 (a + 1) = hi v ∧
        (s.write16 a v).read16 a = v ∧ KeepsMemory [a, a + 1] s (s.write16 a v) ∧ (s.write16 a v).busLog = s.busLog)) ∧
    (s.onPlatform a = false → (s.write8 a (lo v)).read8 a = lo v ∧ (s.write8 a (lo v)).busLog = s.busLog) ∧
    KeepsMemory [a] s (s.write8 a (lo v))

/-- What a byte access does (20_memory.md R41, R52, parameter `BUS`): an address that is flat RAM answers what it holds and a read
of it changes nothing; an address of the platform answers whatever the platform does, sees the access, and holds no byte of RAM.
The form of the parameter is the model's choice (92_eei_decisions.md D26; log entry 8). -/
def Obligations.ByteAccessesReachRamOrThePlatform : Prop :=
  ∀ (s : State) (a : Word) (v : Byte),
    (s.onPlatform a = false →
      s.afterRead8 a = s ∧ s.write8 a v = { s with mem := s.mem.write a.toNat v } ∧
        (s.mem.wf = true → (s.write8 a v).read8 a = v ∧ (s.write8 a v).mem.wf = true)) ∧
    (s.onPlatform a = true →
      s.read8 a = Config.platformRead s.busLog s.ifReg s.ieReg a ∧
        s.afterRead8 a = { s with busLog := .read a :: s.busLog } ∧
        s.write8 a v = { s with busLog := .write a v :: s.busLog })

/-- The order of the two byte accesses of a word cannot be seen unless both bytes are the platform's, where it is a free choice
for each access (20_memory.md R51 and its parameter `WORD_ACCESS_ORDER`, left open by 92_eei_decisions.md D10; log entry 7). -/
def Obligations.WordAccessOrderCannotBeSeen : Prop :=
  ∀ (s : State) (o : Config.WordAccessOrder) (a v : Word), s.mem.wf = true →
    (s.onPlatform a = false ∨ s.onPlatform (a + 1) = false →
      s.write16 a v = s.write16In o a v ∧ s.read16 a = s.read16In o a ∧ s.afterRead16 a = s.afterRead16In o a) ∧
    (s.onPlatform a = true → s.onPlatform (a + 1) = true →
      s.write16 a v = s.write16In (Config.wordAccessOrder s.busLog a) a v ∧
        (s.write16 a v).busLog = (write16Accesses (Config.wordAccessOrder s.busLog a) a v).reverse ++ s.busLog ∧
        s.read16 a = s.read16In (Config.wordAccessOrder s.busLog a) a ∧
        (s.afterRead16 a).busLog = (read16Accesses (Config.wordAccessOrder s.busLog a) a).reverse ++ s.busLog)

/-- R46: fetch reads at PC and moves PC by 1 or 2, the first byte being the low one of a word; nothing else changes but what the
platform has seen, which at an address of flat RAM is nothing. -/
def Obligations.FetchReadsAtPCAndAdvances : Prop :=
  ∀ s : State,
    s.fetch8 = (s.read8 s.pc, { s.afterRead8 s.pc with pc := s.pc + 1 }) ∧
    s.fetch16 = (s.read16 s.pc, { s.afterRead16 s.pc with pc := s.pc + 2 }) ∧
    { s.afterRead8 s.pc with busLog := s.busLog } = s ∧ { s.afterRead16 s.pc with busLog := s.busLog } = s ∧
    (s.onPlatform s.pc = false → s.onPlatform (s.pc + 1) = false →
      s.fetch8.2 = { s with pc := s.pc + 1 } ∧ s.fetch16.2 = { s with pc := s.pc + 2 } ∧
      lo s.fetch16.1 = s.read8 s.pc ∧ hi s.fetch16.1 = s.read8 (s.pc + 1))

/-- Code in flat RAM is fetched as memory holds it: the bytes taken at PC are memory's there, as many as the first one calls for
(30_encoding.md R81), and the fetch moves PC past them and changes nothing else. -/
def Obligations.CodeInRamIsWhatMemoryHolds : Prop :=
  ∀ s : State, s.onPlatform s.pc = false → s.onPlatform (s.pc + 1) = false → s.onPlatform (s.pc + 2) = false →
    s.bytesAtPC = [s.read8 s.pc, s.read8 (s.pc + 1), s.read8 (s.pc + 2)].take (bytesAfter (s.read8 s.pc) + 1) ∧
    s.afterFetch = { s with pc := s.pc + BitVec.ofNat 16 (bytesAfter (s.read8 s.pc) + 1) }

/-- R48 with its byte placement (90_conflicts.md C6; log entry 17): a push moves SP down by 2 and puts the low byte at the old
SP - 2 and the high byte at SP - 1; a pop reads the word at SP and moves it up by 2, so on flat RAM it takes back what was
pushed. -/
def Obligations.PushThenPop : Prop :=
  ∀ (s : State) (v : Word), s.mem.wf = true →
    (s.push16 v).sp = s.sp - 2 ∧ Stored (s.sp - 2) (lo v) s (s.push16 v) ∧ Stored (s.sp - 1) (hi v) s (s.push16 v) ∧
    KeepsMemory [s.sp - 2, s.sp - 1] s (s.push16 v) ∧
    BusSaw (write16Accesses (s.wordOrder .loFirst (s.sp - 2)) (s.sp - 2) v) s (s.push16 v) ∧
    KeepsRegs8 [] s (s.push16 v) ∧ (s.push16 v).f = s.f ∧ (s.push16 v).pc = s.pc ∧ KeepsSystem s (s.push16 v) ∧
    s.pop16 = (s.read16 s.sp, { s.afterRead16 s.sp with sp := s.sp + 2 }) ∧ (s.push16 v).pop16.2.sp = s.sp ∧
    (s.onPlatform (s.sp - 2) = false → s.onPlatform (s.sp - 1) = false → (s.push16 v).pop16.1 = v)

/-- A store is seen by the very next fetch (20_memory.md R63): LD (a16),A onto the next instruction's opcode byte makes it A on
flat RAM, and at a platform address the platform has seen the store when it answers the fetch. -/
def Obligations.NextFetchSeesTheStore : Prop :=
  ∀ s : State, s.mem.wf = true → ∃ t, exec (.ldIndImmA s.pc) s = .next t ∧ t.pc = s.pc ∧
    (s.onPlatform s.pc = false → t.fetch8.1 = s.a) ∧
    (s.onPlatform s.pc = true →
      t.fetch8.1 = Config.platformRead (.write s.pc s.a :: s.busLog) s.ifReg s.ieReg s.pc)

/-! ## Control transfer and system instructions: results, completion, frame -/

/-- NOP changes nothing (R120). -/
def Obligations.NopChangesNothing : Prop := ∀ s : State, exec .nop s = .next s

/-- JP a16, JP cc,a16 and JP HL set PC, the conditional one only when its condition holds, and change nothing else. That the
target is the literal and no memory is read is the spec's own choice (90_conflicts.md C7, 92_eei_decisions.md D15; log entry 17). -/
def Obligations.JumpsSetOnlyPC : Prop :=
  ∀ (s : State) (a16 : Word) (cc : Cond),
    exec (.jpImm a16) s = .next { s with pc := a16 } ∧
    (s.cond cc = true → exec (.jpCond cc a16) s = .next { s with pc := a16 }) ∧
    (s.cond cc = false → exec (.jpCond cc a16) s = .next s) ∧
    exec .jpHL s = .next { s with pc := pair s.h s.l }

/-- DI clears IME and EI sets it, at once, and nothing else changes. -/
def Obligations.DiAndEiWriteOnlyIME : Prop :=
  ∀ s : State, exec .di s = .next { s with ime := false } ∧ exec .ei s = .next { s with ime := true }

/-- HALT sets `halted` and nothing else, except in the case of R133; admitting HALT is the spec's own choice
(92_eei_decisions.md D3). -/
def Obligations.HaltSetsOnlyHalted : Prop :=
  ∀ s : State, s.ime = true ∨ s.ifReg &&& s.ieReg &&& 0x1F = 0 → exec .halt s = .next { s with halted := true }

/-- HALT with IME false and an enabled request pending is refused (R133; the refusal is the spec's own choice,
92_eei_decisions.md D4). -/
def Obligations.HaltBugIsRefused : Prop :=
  ∀ s : State, s.ime = false → s.ifReg &&& s.ieReg &&& 0x1F ≠ 0 → exec .halt s = .refused .haltBug

/-! ## XOR -/

/-- R140, for its three forms: A is the exclusive or, Z says whether it is zero, N, H and C are cleared, so F is 0x80 or 0x00,
and nothing else changes; XOR (HL) makes one read and the others none. -/
def Obligations.XorWritesAAndAllFlags : Prop :=
  ∀ (s : State) (i : Instr) (v : Byte) (xs : List Config.BusEvent),
    (∃ r, i = .xorReg r ∧ v = s.get8 r ∧ xs = []) ∨
    (i = .xorIndHL ∧ v = s.read8 (pair s.h s.l) ∧ xs = [.read (pair s.h s.l)]) ∨ (i = .xorImm v ∧ xs = []) →
    ∃ t, exec i s = .next t ∧ t.a = s.a ^^^ v ∧ FlagsAre (decide (s.a ^^^ v = 0)) false false false s t ∧
      (s.f &&& 0x0F = 0 → t.f = if s.a ^^^ v = 0 then 0x80 else 0x00) ∧
      KeepsRegs8 [.a] s t ∧ t.sp = s.sp ∧ t.pc = s.pc ∧ KeepsSystem s t ∧ KeepsMemory [] s t ∧ BusSaw xs s t

/-! ## LD -/

/-- LD r,r', LD r,d8, LD r,(HL), LD A,(BC), LD A,(DE) and LD A,(a16): the destination register takes the whole byte, whose
address is computed before it is written, and nothing else changes, F included; a load from memory makes one read. -/
def Obligations.ByteLoadsWriteTheirRegister : Prop :=
  ∀ (s : State) (i : Instr) (dst : Reg8) (v : Byte) (xs : List Config.BusEvent),
    (∃ src, i = .ldRegReg dst src ∧ v = s.get8 src ∧ xs = []) ∨ (i = .ldRegImm dst v ∧ xs = []) ∨
    (∃ addr, v = s.read8 addr ∧ xs = [.read addr] ∧
      ((i = .ldRegIndHL dst ∧ addr = pair s.h s.l) ∨ (i = .ldAIndBC ∧ dst = .a ∧ addr = pair s.b s.c) ∨
        (i = .ldAIndDE ∧ dst = .a ∧ addr = pair s.d s.e) ∨ (i = .ldAIndImm addr ∧ dst = .a))) →
    ∃ t, exec i s = .next t ∧ t.get8 dst = v ∧ KeepsRegs8 [dst] s t ∧ t.f = s.f ∧ t.sp = s.sp ∧ t.pc = s.pc ∧
      KeepsSystem s t ∧ KeepsMemory [] s t ∧ BusSaw xs s t

/-- LD rr,d16 and LD SP,HL: the 16-bit destination takes the value, a pair in its two halves; nothing else changes. -/
def Obligations.WordMovesWriteTheirRegister : Prop :=
  ∀ (s : State) (w : Word),
    (exec (.ldPairImm .bc w) s = .next { s with b := hi w, c := lo w }) ∧
    (exec (.ldPairImm .de w) s = .next { s with d := hi w, e := lo w }) ∧
    (exec (.ldPairImm .hl w) s = .next { s with h := hi w, l := lo w }) ∧
    (exec (.ldPairImm .sp w) s = .next { s with sp := w }) ∧
    (exec .ldSPHL s = .next { s with sp := pair s.h s.l })

/-- LD (HL),r, LD (HL),d8, LD (BC),A, LD (DE),A and LD (a16),A: one write of the source at the address; no register, no flag and
no other byte changes. -/
def Obligations.ByteStoresWriteOneByte : Prop :=
  ∀ (s : State) (i : Instr) (addr : Word) (v : Byte), s.mem.wf = true →
    (∃ src, i = .ldIndHLReg src ∧ addr = pair s.h s.l ∧ v = s.get8 src) ∨
    (i = .ldIndHLImm v ∧ addr = pair s.h s.l) ∨ (i = .ldIndBCA ∧ addr = pair s.b s.c ∧ v = s.a) ∨
    (i = .ldIndDEA ∧ addr = pair s.d s.e ∧ v = s.a) ∨ (i = .ldIndImmA addr ∧ v = s.a) →
    ∃ t, exec i s = .next t ∧ Stored addr v s t ∧ KeepsMemory [addr] s t ∧ BusSaw [.write addr v] s t ∧ KeepsRegs8 [] s t ∧
      t.f = s.f ∧ t.sp = s.sp ∧ t.pc = s.pc ∧ KeepsSystem s t

/-- LD (HL+),A and LD (HL-),A: A is stored at HL's old value, then HL is one more or one less, modulo 2^16, with no flag. -/
def Obligations.TaggedStoresUseTheOldHL : Prop :=
  ∀ s : State, s.mem.wf = true →
    (∃ t, exec .ldIndHLIncA s = .next t ∧ Stored (pair s.h s.l) s.a s t ∧ pair t.h t.l = pair s.h s.l + 1 ∧
      KeepsMemory [pair s.h s.l] s t ∧ BusSaw [.write (pair s.h s.l) s.a] s t ∧ KeepsRegs8 [.h, .l] s t ∧ t.f = s.f ∧
      t.sp = s.sp ∧ t.pc = s.pc ∧ KeepsSystem s t) ∧
    (∃ t, exec .ldIndHLDecA s = .next t ∧ Stored (pair s.h s.l) s.a s t ∧ pair t.h t.l = pair s.h s.l - 1 ∧
      KeepsMemory [pair s.h s.l] s t ∧ BusSaw [.write (pair s.h s.l) s.a] s t ∧ KeepsRegs8 [.h, .l] s t ∧ t.f = s.f ∧
      t.sp = s.sp ∧ t.pc = s.pc ∧ KeepsSystem s t)

/-- LD A,(HL+) and LD A,(HL-): A takes the byte at HL's old value, then HL is one more or one less, modulo 2^16. -/
def Obligations.TaggedLoadsUseTheOldHL : Prop :=
  ∀ s : State,
    (∃ t, exec .ldAIndHLInc s = .next t ∧ t.a = s.read8 (pair s.h s.l) ∧ pair t.h t.l = pair s.h s.l + 1 ∧
      KeepsMemory [] s t ∧ BusSaw [.read (pair s.h s.l)] s t ∧ KeepsRegs8 [.a, .h, .l] s t ∧ t.f = s.f ∧ t.sp = s.sp ∧
      t.pc = s.pc ∧ KeepsSystem s t) ∧
    (∃ t, exec .ldAIndHLDec s = .next t ∧ t.a = s.read8 (pair s.h s.l) ∧ pair t.h t.l = pair s.h s.l - 1 ∧
      KeepsMemory [] s t ∧ BusSaw [.read (pair s.h s.l)] s t ∧ KeepsRegs8 [.a, .h, .l] s t ∧ t.f = s.f ∧ t.sp = s.sp ∧
      t.pc = s.pc ∧ KeepsSystem s t)

/-- LD (a16),SP: SP's low byte at the address and its high byte at the next one, modulo 2^16; no register changes. That the next
address wraps is the spec's own choice (92_eei_decisions.md D9; log entry 13). -/
def Obligations.StoreOfSPWritesTwoBytes : Prop :=
  ∀ (s : State) (a16 : Word), s.mem.wf = true →
    ∃ t, exec (.ldIndImmSP a16) s = .next t ∧ Stored a16 (lo s.sp) s t ∧ Stored (a16 + 1) (hi s.sp) s t ∧
      KeepsMemory [a16, a16 + 1] s t ∧ BusSaw (write16Accesses (s.wordOrder .loFirst a16) a16 s.sp) s t ∧
      KeepsRegs8 [] s t ∧ t.f = s.f ∧ t.sp = s.sp ∧ t.pc = s.pc ∧ KeepsSystem s t

/-- LD HL,SP+r8: HL is SP plus the signed byte; Z and N are cleared; H and C are set by the carries out of bits 3 and 7 of the
unsigned byte sum and are otherwise kept; SP and memory are unchanged. That the byte is signed in two's complement is the spec's
own choice (92_eei_decisions.md D27; log entry 16), and that H and C are never cleared is the source's word, from which silicon
differs (log entry 16). -/
def Obligations.LoadHLFromSPIsSticky : Prop :=
  ∀ (s : State) (r8 : Byte),
    ∃ t, exec (.ldHLSPImm r8) s = .next t ∧ pair t.h t.l = s.sp + r8.signExtend 16 ∧
      FlagsAre false false
        (testFlag .h s.f || decide (s.sp.toNat % 16 + r8.toNat % 16 > 15))
        (testFlag .c s.f || decide (s.sp.toNat % 256 + r8.toNat > 255)) s t ∧
      KeepsRegs8 [.h, .l] s t ∧ t.sp = s.sp ∧ t.pc = s.pc ∧ KeepsSystem s t ∧ KeepsMemory [] s t ∧ t.busLog = s.busLog

/-! ## INC and DEC -/

/-- INC r: the register is one more, modulo 2^8; Z from the result, N cleared, H the carry out of bit 3, C kept. The flags are
the spec's own choice of `INCDEC8_FLAGS = HW` (92_eei_decisions.md D5; log entry 2). -/
def Obligations.IncRegAddsOne : Prop :=
  ∀ (s : State) (r : Reg8),
    ∃ t, exec (.incReg r) s = .next t ∧ t.get8 r = s.get8 r + 1 ∧
      FlagsAre (decide (s.get8 r = 0xFF)) false (decide ((s.get8 r).toNat % 16 = 15)) (testFlag .c s.f) s t ∧
      KeepsRegs8 [r] s t ∧ t.sp = s.sp ∧ t.pc = s.pc ∧ KeepsSystem s t ∧ KeepsMemory [] s t ∧ t.busLog = s.busLog

/-- DEC r: the register is one less, modulo 2^8; Z from the result, N set, H the borrow from bit 4, C kept. The flags are the
spec's own choice of `INCDEC8_FLAGS = HW` (92_eei_decisions.md D5; log entry 2). -/
def Obligations.DecRegSubtractsOne : Prop :=
  ∀ (s : State) (r : Reg8),
    ∃ t, exec (.decReg r) s = .next t ∧ t.get8 r = s.get8 r - 1 ∧
      FlagsAre (decide (s.get8 r = 1)) true (decide ((s.get8 r).toNat % 16 = 0)) (testFlag .c s.f) s t ∧
      KeepsRegs8 [r] s t ∧ t.sp = s.sp ∧ t.pc = s.pc ∧ KeepsSystem s t ∧ KeepsMemory [] s t ∧ t.busLog = s.busLog

/-- Under `INCDEC8_FLAGS = NONE` INC r and DEC r write no flag and the same register value (45_inc_dec.md R184). -/
def Obligations.IncDecWithoutFlags : Prop :=
  ∀ (s : State) (r : Reg8),
    s.inc8 .none r = s.set8 r (s.get8 r + 1) ∧ s.dec8 .none r = s.set8 r (s.get8 r - 1) ∧
    (s.inc8 .none r).f = s.f ∧ (s.dec8 .none r).f = s.f

/-- INC rr and DEC rr: the whole 16-bit register is one more or one less, modulo 2^16, and no flag is written. That they write no
flag, whatever `INCDEC8_FLAGS` is, is the spec's own choice (92_eei_decisions.md D5; log entry 2). -/
def Obligations.PairIncDecWriteNoFlag : Prop :=
  ∀ (s : State) (rr : Reg16),
    ∃ t u, exec (.incPair rr) s = .next t ∧ exec (.decPair rr) s = .next u ∧
      t.get16 rr = s.get16 rr + 1 ∧ u.get16 rr = s.get16 rr - 1 ∧ t.f = s.f ∧ u.f = s.f ∧
      (∀ q, q ≠ rr → t.get16 q = s.get16 q ∧ u.get16 q = s.get16 q) ∧ t.a = s.a ∧ u.a = s.a ∧ t.pc = s.pc ∧ u.pc = s.pc ∧
      KeepsSystem s t ∧ KeepsSystem s u ∧ KeepsMemory [] s t ∧ KeepsMemory [] s u ∧ t.busLog = s.busLog ∧ u.busLog = s.busLog

/-! ## Rules over all instructions -/

/-- Which instructions write what (10_state.md R16, R17, R21 to R23, R25, R28): an instruction's own effect never touches IF, IE,
`fatal` or the environment's moves; A and B to L change only in the instructions of R28's first two rows; PC, SP, F, IME and
`halted` change only by the instructions named; and memory and the platform's history change only by the instruction's data
accesses (20_memory.md R50). That INC r and DEC r write flags and INC rr and DEC rr none is the spec's own choice
(92_eei_decisions.md D5; log entry 2). -/
def Obligations.EachRegisterHasItsWriters : Prop :=
  ∀ (i : Instr) (s t : State), exec i s = .next t →
    t.ifReg = s.ifReg ∧ t.ieReg = s.ieReg ∧ t.fatal = s.fatal ∧ t.platform = s.platform ∧ t.env = s.env ∧
    KeepsRegs8 i.writtenRegs s t ∧
    (t.pc ≠ s.pc → i.mnemonic = .jp) ∧
    (t.sp ≠ s.sp → (∃ w, i = .ldPairImm .sp w) ∨ i = .ldSPHL ∨ i = .incPair .sp ∨ i = .decPair .sp) ∧
    (t.f ≠ s.f → i.mnemonic = .xor ∨ (∃ v, i = .ldHLSPImm v) ∨ (∃ r, i = .incReg r) ∨ ∃ r, i = .decReg r) ∧
    (t.ime ≠ s.ime → i = .di ∨ i = .ei) ∧ (t.halted ≠ s.halted → i = .halt) ∧
    t.mem = (s.replay (s.dataAccesses .loFirst i)).mem ∧ BusSaw (s.dataAccesses .loFirst i) s t

/-- The descriptor view and the rules agree: running the descriptor of 30_encoding.md R85 through the resolver and the handlers
of 40_operands.md is the instruction's own meaning, for every instruction in every state, its bus accesses included. The
descriptors are the spec's own (92_eei_decisions.md D2), and the handlers' form is the model's (log entry 21). -/
def Obligations.ResolverAgreesWithTheRules : Prop :=
  ∀ (i : Instr) (s : State), execDescriptor i.descriptor s = exec i s

/-- Executing a descriptor, whether or not the table holds it, records OperandShapeError exactly when its operands are not of the
shape its mnemonic requires (40_operands.md R107) or one of them is dereferenced and its symbol is no address, and it records no
other fatal error; so a well-formed descriptor records none (60_exceptions.md R202, R203). The clause on the dereference, which
takes only a 16-bit register and an address literal for an address where the pseudocode of `resolve` would read at any 16-bit
literal, is the model's choice, and so are that nothing but `fatal` changes and where a tag makes a shape wrong (log entry
21). -/
def Obligations.ShapeErrorExactlyOnWrongShape : Prop :=
  ∀ (d : Descriptor) (s : State), s.fatal = none →
    (execDescriptor d s = .next { s with fatal := some .operandShapeError } ↔
      shapeOk d.mnemonic d.operands = false ∨ ∃ o ∈ d.operands, o.deref = true ∧ s.address o = none) ∧
    (∀ t, execDescriptor d s = .next t → t.fatal = none ∨ t = { s with fatal := some .operandShapeError }) ∧
    (d.wellFormed = true → ∀ t, execDescriptor d s = .next t → t.fatal = none)

/-! ## The interrupt controller -/

/-- R211, with IME gating it as the spec reads its source (90_conflicts.md C1; log entry 12): `select` answers none exactly when
nothing is serviceable or IME is false, and otherwise the least serviceable source, IF without that bit alone, IME false and the
vector 0x0040 + 8*i. -/
def Obligations.SelectPicksTheLeastSource : Prop :=
  ∀ (ifReg ieReg : Byte) (ime : Bool),
    (select ifReg ieReg ime = none ↔ ifReg &&& ieReg &&& 0x1F = 0 ∨ ime = false) ∧
    ∀ sel, select ifReg ieReg ime = some sel →
      (ifReg &&& ieReg).getLsbD sel.source.bit = true ∧ (∀ j, j < sel.source.bit → (ifReg &&& ieReg).getLsbD j = false) ∧
      (∀ k, k < 8 → sel.newIF.getLsbD k = (ifReg.getLsbD k && decide (k ≠ sel.source.bit))) ∧
      sel.newIME = false ∧ sel.vector.toNat = 0x0040 + 8 * sel.source.bit

/-- `check` in full (60_exceptions.md R212): it is `select` applied, with `halted` cleared whenever a source is serviceable. That IME
gates the dispatch and not the clearing is the spec's own reading (90_conflicts.md C1; log entry 12), and so is the answer in the
wake-up case (92_eei_decisions.md D28). -/
def Obligations.CheckAppliesTheSelection : Prop :=
  ∀ s : State,
    s.check =
      match select s.ifReg s.ieReg s.ime with
      | none => ({ s with halted := s.halted && decide (s.ifReg &&& s.ieReg &&& 0x1F = 0) }, none)
      | some sel =>
        ({ s.push16 s.pc with pc := sel.vector, ifReg := sel.newIF, ime := sel.newIME, halted := false }, some sel.source)

/-- R213, with the byte placement the spec chose (90_conflicts.md C6; log entry 17): dispatch pushes PC, loads the vector, clears
the one request bit, IME and `halted`, and saves and changes nothing else. -/
def Obligations.DispatchIsTheTrapEntry : Prop :=
  ∀ (s : State) (i : Source), s.mem.wf = true →
    (s.dispatch i).sp = s.sp - 2 ∧ Stored (s.sp - 2) (lo s.pc) s (s.dispatch i) ∧
    Stored (s.sp - 1) (hi s.pc) s (s.dispatch i) ∧
    BusSaw (write16Accesses (s.wordOrder .loFirst (s.sp - 2)) (s.sp - 2) s.pc) s (s.dispatch i) ∧
    (s.dispatch i).pc.toNat = 0x0040 + 8 * i.bit ∧
    (∀ k, k < 8 → (s.dispatch i).ifReg.getLsbD k = (s.ifReg.getLsbD k && decide (k ≠ i.bit))) ∧
    (s.dispatch i).ime = false ∧ (s.dispatch i).halted = false ∧
    KeepsMemory [s.sp - 2, s.sp - 1] s (s.dispatch i) ∧ KeepsRegs8 [] s (s.dispatch i) ∧ (s.dispatch i).f = s.f ∧
    (s.dispatch i).ieReg = s.ieReg ∧ (s.dispatch i).fatal = s.fatal ∧ (s.dispatch i).platform = s.platform ∧
    (s.dispatch i).env = s.env

/-- R210: of several serviceable sources the lowest bit wins, exactly one is dispatched in a check, the rest stay latched, and a
second check with IME set again takes the next one. That the check in between dispatches nothing rests on IME gating dispatch, the
spec's own reading (90_conflicts.md C1; log entry 12). -/
def Obligations.OneSourcePerCheckLowestFirst : Prop :=
  ∀ (s : State) (i : Source), s.ime = true → (s.ifReg &&& s.ieReg).getLsbD i.bit = true →
    (∀ k : Source, k.bit < i.bit → (s.ifReg &&& s.ieReg).getLsbD k.bit = false) →
    s.check.2 = some i ∧ s.check.1.pc = i.vector ∧ s.check.1.ifReg = s.ifReg &&& ~~~i.mask ∧
    s.check.1.check.2 = none ∧
    ∀ j : Source, i.bit < j.bit → (s.ifReg &&& s.ieReg).getLsbD j.bit = true →
      (∀ k : Source, i.bit < k.bit → k.bit < j.bit → (s.ifReg &&& s.ieReg).getLsbD k.bit = false) →
      { s.check.1 with ime := true }.check.2 = some j ∧ { s.check.1 with ime := true }.check.1.pc = j.vector ∧
      { s.check.1 with ime := true }.check.1.ifReg = s.ifReg &&& ~~~i.mask &&& ~~~j.mask

/-- R214, the spec's own reading of its source (90_conflicts.md C1; log entry 12): a check that finds a serviceable source clears
`halted` whatever IME is; with IME false nothing else changes; a pending source that is not enabled changes nothing. -/
def Obligations.WakeUpIgnoresIME : Prop :=
  ∀ s : State,
    (s.HasServiceable → s.check.1.halted = false) ∧
    (s.HasServiceable → s.ime = false → s.check.1 = { s with halted := false }) ∧
    (¬ s.HasServiceable → s.check.1 = s)

/-- R209: with no environment move, a tick leaves IF alone or clears exactly the bit of one source that was pending and enabled,
and then it dispatched that source. -/
def Obligations.OnlyDispatchClearsARequest : Prop :=
  ∀ s t : State, s.env = [] → step s = .next t →
    t.ifReg = s.ifReg ∨
      ∃ i : Source, s.ifReg.getLsbD i.bit = true ∧ s.ieReg.getLsbD i.bit = true ∧ t.ifReg = s.ifReg &&& ~~~i.mask ∧
        t.pc = i.vector ∧ t.ime = false ∧ t.halted = false

/-- A request sets its one bit of IF, asking again changes nothing, and it is latched: over a tick a bit that is set stays set
until the dispatch of its enabled source. The core never sets a bit of IF nor writes IE (10_state.md R22, R23; 60_exceptions.md
R207). The queue of moves is the model's (log entry 5). -/
def Obligations.RequestsAreLatchedByTheEnvironmentAlone : Prop :=
  (∀ (s : State) (i : Source),
    (s.envMove (.request i)).ifReg.getLsbD i.bit = true ∧
    (∀ k, k ≠ i.bit → (s.envMove (.request i)).ifReg.getLsbD k = s.ifReg.getLsbD k) ∧
    (s.ifReg.getLsbD i.bit = true → s.envMove (.request i) = s) ∧
    s.envMove (.request i) = { s with ifReg := (s.envMove (.request i)).ifReg }) ∧
  ∀ s t : State, s.env = [] → step s = .next t →
    t.ieReg = s.ieReg ∧ t.ifReg &&& ~~~s.ifReg = 0 ∧
    ∀ k, s.ifReg.getLsbD k = true → t.ifReg.getLsbD k = false →
      ∃ i : Source, k = i.bit ∧ s.ieReg.getLsbD k = true ∧ t.pc = i.vector ∧ t.ime = false ∧ t.halted = false

/-- EI and DI take effect in their own tick (42_di_ei_halt.md R130, R131; 70_reset_and_hazards.md R245): the tick of an EI
dispatches a serviceable source at once, with the address after the EI pushed, and the tick of a DI dispatches nothing. The IME
gate (90_conflicts.md C1; log entry 12) and the placement of the pushed bytes (C6; log entry 17) are the spec's own readings. -/
def Obligations.EiAndDiActInTheirOwnTick : Prop :=
  ∀ (s : State) (rest : List Byte), s.fatal = none → s.halted = false → s.env = [] → s.mem.wf = true →
    (decode s.bytesAtPC = .ok .ei rest → ∀ i, leastSource (s.ifReg &&& s.ieReg &&& 0x1F) = some i →
      ∃ t, step s = .next t ∧ t.pc = i.vector ∧ t.ime = false ∧ t.sp = s.sp - 2 ∧ Stored (s.sp - 2) (lo (s.pc + 1)) s t ∧
        Stored (s.sp - 1) (hi (s.pc + 1)) s t ∧ KeepsMemory [s.sp - 2, s.sp - 1] s t ∧ t.ifReg = s.ifReg &&& ~~~i.mask) ∧
    (decode s.bytesAtPC = .ok .di rest → step s = .next { s.afterRead8 s.pc with pc := s.pc + 1, ime := false })

/-! ## The tick -/

/-- When the bytes fetch takes at PC decode to an instruction, a step of a running core that is not halted is that instruction's
meaning with PC past its bytes and the fetch's reads seen, then the environment's boundary, the check, and the boundary after it.
The order of the tick and of the fetches is the spec's own (92_eei_decisions.md D13, D29; log entry 18), and the boundary is the
model's queue (log entry 5). -/
def Obligations.StepRunsTheDecodedInstruction : Prop :=
  ∀ (s : State) (i : Instr) (rest : List Byte), s.fatal = none → s.halted = false → decode s.bytesAtPC = .ok i rest →
    rest = [] ∧
    step s =
      match exec i { s with
          pc := s.pc + BitVec.ofNat 16 i.length, busLog := (s.replay (s.fetchAccesses .loFirst)).busLog } with
      | .next t => .next t.boundary.check.1.boundary
      | .fault f => .fault f
      | .refused r => .refused r

/-- When the bytes at PC have no row, the step records DecodeError with the byte looked up, PC past the one or two bytes
fetched, and changes nothing else: no immediate is fetched and no check runs (60_exceptions.md R201, R204 and
30_encoding.md R78, R79, whose points are the spec's own, 92_eei_decisions.md D1, D14, D25; log entry 10). -/
def Obligations.MissingRowRecordsDecodeError : Prop :=
  ∀ (s : State) (o : Byte), s.fatal = none → s.halted = false →
    (decode s.bytesAtPC = .reject (.noRow o false) →
      o = s.read8 s.pc ∧
        step s = .next { s.afterRead8 s.pc with pc := s.pc + 1, fatal := some (.decodeError o false) }) ∧
    (decode s.bytesAtPC = .reject (.noRow o true) →
      s.read8 s.pc = 0xCB ∧ o = (s.afterRead8 s.pc).read8 (s.pc + 1) ∧
        step s = .next { (s.afterRead8 s.pc).afterRead8 (s.pc + 1) with
          pc := s.pc + 2, fatal := some (.decodeError o true) })

/-- A fatal error is terminal (60_exceptions.md R204; its form is the spec's own, 92_eei_decisions.md D14): the state has no
successor, in one step or in more. -/
def Obligations.FatalErrorIsTerminal : Prop :=
  ∀ (s : State) (f : Fault), s.fatal = some f →
    step s = .fault f ∧ ∀ (n : Nat) (t : State), Reaches s n t → n = 0 ∧ t = s

/-- DecodeError is the only fatal error a tick records (60_exceptions.md R201 to R203). -/
def Obligations.OnlyDecodeErrorIsRaised : Prop :=
  ∀ s t : State, step s = .next t → t.fatal = none ∨ ∃ o cb, t.fatal = some (.decodeError o cb)

/-- A step stops only on a recorded fatal error, or on HALT in the case of R133; in every other state it answers a next state
(60_exceptions.md R205; 42_di_ei_halt.md R133). -/
def Obligations.StepsStopOnlyWhereTheSpecStops : Prop :=
  ∀ s : State,
    (∀ f, step s = .fault f ↔ s.fatal = some f) ∧
    (∀ r, step s = .refused r ↔
      r = .haltBug ∧ s.fatal = none ∧ s.halted = false ∧ decode [s.read8 s.pc] = .ok .halt [] ∧ s.ime = false ∧
        s.ifReg &&& s.ieReg &&& 0x1F ≠ 0) ∧
    (s.fatal = none → (s.halted = true ∨ decode [s.read8 s.pc] ≠ .ok .halt [] ∨ s.ime = true ∨
        s.ifReg &&& s.ieReg &&& 0x1F = 0) → ∃ t, step s = .next t)

/-- R222: while halted a tick is a check alone; PC, registers and memory change only if it dispatches, and the halted state is
left only when a source is serviceable. -/
def Obligations.HaltedTickIsACheckAlone : Prop :=
  ∀ s : State, s.fatal = none → s.halted = true → s.env = [] →
    step s = .next s.check.1 ∧
    (s.check.2 = none → s.check.1 = { s with halted := s.check.1.halted }) ∧
    (s.check.1.halted = false → s.HasServiceable)

/-- A halted core with nothing serviceable and no environment move waits for ever: every tick answers the same state
(70_reset_and_hazards.md R252 (b), the spec's own words on the end of a run, 92_eei_decisions.md D24). -/
def Obligations.WaitingCoreStaysAsItIs : Prop :=
  ∀ (s : State), s.Waiting → ∀ (n : Nat), Reaches s n s ∧ ∀ t, Reaches s n t → t = s

/-- The invariant: whatever the environment does, every step keeps F's low nibble zero (10_state.md R13) and memory in its
canonical form. -/
def Obligations.EveryStepKeepsTheInvariant : Prop := ∀ s t : State, s.Inv → step s = .next t → t.Inv

/-! ## The bus -/

/-- The bus trace accounts for memory and for what the platform sees: with no environment move, both are after a step what the
accesses of the tick (20_memory.md R50, R53), made in order, leave of them, whichever order is taken for a word whose order cannot
be seen (log entry 7). The order of the fetches and of instruction and check in that list is the spec's own choice
(92_eei_decisions.md D29, D13; log entry 18), and that the bus is flat RAM and the platform the model's form (log entry 8). -/
def Obligations.BusTraceAccountsForMemory : Prop :=
  ∀ (o : Config.WordAccessOrder) (s t : State), s.env = [] → s.mem.wf = true → step s = .next t →
    t.mem = (s.replay (s.tickAccesses o)).mem ∧ BusSaw (s.tickAccesses o) s t

/-- No instruction both reads and writes data (20_memory.md R53, R61), none makes more than two data accesses, and the writes it
makes are the only bytes of flat RAM its meaning changes. -/
def Obligations.NoInstructionReadsAndWritesData : Prop :=
  ∀ (o : Config.WordAccessOrder) (i : Instr) (s : State),
    ((∀ x ∈ s.dataAccesses o i, ∃ a, x = .read a) ∨ (∀ x ∈ s.dataAccesses o i, ∃ a v, x = .write a v)) ∧
    (s.dataAccesses o i).length ≤ 2 ∧
    ∀ t a, exec i s = .next t → s.onPlatform a = false → (∀ v, .write a v ∉ s.dataAccesses o i) → t.read8 a = s.read8 a

/-! ## Reset -/

/-- Reset, for every value of the parameter `RESET` whose F has a zero low nibble (70_reset_and_hazards.md R240, R242; its form is
the spec's own, 92_eei_decisions.md D8): every register takes its field, `halted` is false, `fatal` is none, memory is the bus's
initial content, the invariant holds, and the reset event gives that state whatever the core was in. That the event leaves the bus
and the pending moves as they are is the model's choice (log entry 22). -/
def Obligations.ResetGivesEveryFieldItsValue : Prop :=
  ∀ (r : Config.Reset) (content : Memory) (platform : List Span) (s : State), r.f &&& 0x0F = 0 →
    (content.wf = true → (State.resetWith r content platform).Inv) ∧ (s.mem.wf = true → (s.resetCore r).Inv) ∧
    State.resetWith r content platform =
      { a := r.a, f := r.f, b := r.b, c := r.c, d := r.d, e := r.e, h := r.h, l := r.l, sp := r.sp, pc := r.pc,
        ime := r.ime, ifReg := r.ifReg, ieReg := r.ieReg, halted := false, fatal := none, mem := content,
        platform := platform, busLog := [], env := [] } ∧
    s.resetCore r =
      { State.resetWith r s.mem s.platform with busLog := s.busLog, env := s.env }

/-- The model's reset state meets the invariant and runs; its register values are R240's suggested instance, PRESUMED (log
entry 1), and none is used here beyond F's low nibble. -/
def Obligations.ResetStateMeetsTheInvariant : Prop :=
  State.reset.Inv ∧ State.reset.fatal = none ∧ State.reset.halted = false
end

