-- ==== Sys2Proof/Laws/Flags.lean ====
section
/-! SUPPORT. What each flag operation does to each flag and to F's low nibble (10_state.md R13, R19). Literals stand in the
form `simp` gives them (`15#8` for 0x0F). -/

namespace Sys2Proof.Machine

/-- Setting and clearing flags keeps the low nibble. -/
@[simp] theorem setFlag_low (fl : Flag) (f : Byte) : setFlag fl f &&& 15#8 = f &&& 15#8 := by
  revert f
  cases fl <;> decide

@[simp] theorem clearFlag_low (fl : Flag) (f : Byte) : clearFlag fl f &&& 15#8 = f &&& 15#8 := by
  revert f
  cases fl <;> decide

@[simp] theorem putFlag_low (fl : Flag) (b : Bool) (f : Byte) : putFlag fl b f &&& 15#8 = f &&& 15#8 := by
  unfold putFlag
  split <;> simp

@[simp] theorem maskF_low (v : Byte) : maskF v &&& 15#8 = 0#8 := by
  revert v
  decide

theorem xorFlags_low (res f : Byte) : xorFlags res f &&& 15#8 = f &&& 15#8 := by simp [xorFlags]

theorem spImmFlags_low (sp : Word) (r8 f : Byte) : spImmFlags sp r8 f &&& 15#8 = f &&& 15#8 := by
  simp only [spImmFlags, clearFlag_low]
  split <;> split <;> simp

theorem incFlags_low (p : Config.IncDec8Flags) (old f : Byte) : incFlags p old f &&& 15#8 = f &&& 15#8 := by
  cases p <;> simp [incFlags]

theorem decFlags_low (p : Config.IncDec8Flags) (old f : Byte) : decFlags p old f &&& 15#8 = f &&& 15#8 := by
  cases p <;> simp [decFlags]

/-- What a flag reads as after it or another flag is written. -/
@[simp] theorem testFlag_setFlag_same (fl : Flag) (f : Byte) : testFlag fl (setFlag fl f) = true := by
  revert f
  cases fl <;> decide

@[simp] theorem testFlag_clearFlag_same (fl : Flag) (f : Byte) : testFlag fl (clearFlag fl f) = false := by
  revert f
  cases fl <;> decide

theorem testFlag_setFlag_ne (fl g : Flag) (f : Byte) (ne : g ≠ fl) : testFlag g (setFlag fl f) = testFlag g f := by
  revert f
  cases fl <;> cases g <;> first | exact absurd rfl ne | decide

theorem testFlag_clearFlag_ne (fl g : Flag) (f : Byte) (ne : g ≠ fl) : testFlag g (clearFlag fl f) = testFlag g f := by
  revert f
  cases fl <;> cases g <;> first | exact absurd rfl ne | decide

end Sys2Proof.Machine
end

