-- ==== Sys2Proof/Laws/State.lean ====
section
/-! SUPPORT. One lemma per field and per named update of the state, and the register file's read-after-write lemmas, so that no
later proof unfolds an update. -/

namespace Sys2Proof.Machine

/-! ## `set8` -/

@[simp] theorem State.set8_f (s : State) (r : Reg8) (v : Byte) : (s.set8 r v).f = s.f := by cases r <;> rfl
@[simp] theorem State.set8_sp (s : State) (r : Reg8) (v : Byte) : (s.set8 r v).sp = s.sp := by cases r <;> rfl
@[simp] theorem State.set8_pc (s : State) (r : Reg8) (v : Byte) : (s.set8 r v).pc = s.pc := by cases r <;> rfl
@[simp] theorem State.set8_ime (s : State) (r : Reg8) (v : Byte) : (s.set8 r v).ime = s.ime := by cases r <;> rfl
@[simp] theorem State.set8_ifReg (s : State) (r : Reg8) (v : Byte) : (s.set8 r v).ifReg = s.ifReg := by cases r <;> rfl
@[simp] theorem State.set8_ieReg (s : State) (r : Reg8) (v : Byte) : (s.set8 r v).ieReg = s.ieReg := by cases r <;> rfl
@[simp] theorem State.set8_halted (s : State) (r : Reg8) (v : Byte) : (s.set8 r v).halted = s.halted := by cases r <;> rfl
@[simp] theorem State.set8_fatal (s : State) (r : Reg8) (v : Byte) : (s.set8 r v).fatal = s.fatal := by cases r <;> rfl
@[simp] theorem State.set8_mem (s : State) (r : Reg8) (v : Byte) : (s.set8 r v).mem = s.mem := by cases r <;> rfl
@[simp] theorem State.set8_platform (s : State) (r : Reg8) (v : Byte) : (s.set8 r v).platform = s.platform := by cases r <;> rfl
@[simp] theorem State.set8_busLog (s : State) (r : Reg8) (v : Byte) : (s.set8 r v).busLog = s.busLog := by cases r <;> rfl
@[simp] theorem State.set8_env (s : State) (r : Reg8) (v : Byte) : (s.set8 r v).env = s.env := by cases r <;> rfl

/-! ## `set16` -/

@[simp] theorem State.set16_a (s : State) (r : Reg16) (w : Word) : (s.set16 r w).a = s.a := by cases r <;> rfl
@[simp] theorem State.set16_f (s : State) (r : Reg16) (w : Word) : (s.set16 r w).f = s.f := by cases r <;> rfl
@[simp] theorem State.set16_pc (s : State) (r : Reg16) (w : Word) : (s.set16 r w).pc = s.pc := by cases r <;> rfl
@[simp] theorem State.set16_ime (s : State) (r : Reg16) (w : Word) : (s.set16 r w).ime = s.ime := by cases r <;> rfl
@[simp] theorem State.set16_ifReg (s : State) (r : Reg16) (w : Word) : (s.set16 r w).ifReg = s.ifReg := by cases r <;> rfl
@[simp] theorem State.set16_ieReg (s : State) (r : Reg16) (w : Word) : (s.set16 r w).ieReg = s.ieReg := by cases r <;> rfl
@[simp] theorem State.set16_halted (s : State) (r : Reg16) (w : Word) : (s.set16 r w).halted = s.halted := by cases r <;> rfl
@[simp] theorem State.set16_fatal (s : State) (r : Reg16) (w : Word) : (s.set16 r w).fatal = s.fatal := by cases r <;> rfl
@[simp] theorem State.set16_mem (s : State) (r : Reg16) (w : Word) : (s.set16 r w).mem = s.mem := by cases r <;> rfl
@[simp] theorem State.set16_platform (s : State) (r : Reg16) (w : Word) : (s.set16 r w).platform = s.platform := by cases r <;> rfl
@[simp] theorem State.set16_busLog (s : State) (r : Reg16) (w : Word) : (s.set16 r w).busLog = s.busLog := by cases r <;> rfl
@[simp] theorem State.set16_env (s : State) (r : Reg16) (w : Word) : (s.set16 r w).env = s.env := by cases r <;> rfl

/-! ## `setF` -/

@[simp] theorem State.setF_a (s : State) (v : Byte) : (s.setF v).a = s.a := rfl
@[simp] theorem State.setF_b (s : State) (v : Byte) : (s.setF v).b = s.b := rfl
@[simp] theorem State.setF_c (s : State) (v : Byte) : (s.setF v).c = s.c := rfl
@[simp] theorem State.setF_d (s : State) (v : Byte) : (s.setF v).d = s.d := rfl
@[simp] theorem State.setF_e (s : State) (v : Byte) : (s.setF v).e = s.e := rfl
@[simp] theorem State.setF_h (s : State) (v : Byte) : (s.setF v).h = s.h := rfl
@[simp] theorem State.setF_l (s : State) (v : Byte) : (s.setF v).l = s.l := rfl
@[simp] theorem State.setF_sp (s : State) (v : Byte) : (s.setF v).sp = s.sp := rfl
@[simp] theorem State.setF_pc (s : State) (v : Byte) : (s.setF v).pc = s.pc := rfl
@[simp] theorem State.setF_ime (s : State) (v : Byte) : (s.setF v).ime = s.ime := rfl
@[simp] theorem State.setF_ifReg (s : State) (v : Byte) : (s.setF v).ifReg = s.ifReg := rfl
@[simp] theorem State.setF_ieReg (s : State) (v : Byte) : (s.setF v).ieReg = s.ieReg := rfl
@[simp] theorem State.setF_halted (s : State) (v : Byte) : (s.setF v).halted = s.halted := rfl
@[simp] theorem State.setF_fatal (s : State) (v : Byte) : (s.setF v).fatal = s.fatal := rfl
@[simp] theorem State.setF_mem (s : State) (v : Byte) : (s.setF v).mem = s.mem := rfl
@[simp] theorem State.setF_platform (s : State) (v : Byte) : (s.setF v).platform = s.platform := rfl
@[simp] theorem State.setF_busLog (s : State) (v : Byte) : (s.setF v).busLog = s.busLog := rfl
@[simp] theorem State.setF_env (s : State) (v : Byte) : (s.setF v).env = s.env := rfl

/-! ## `access` -/

@[simp] theorem State.access_a (s : State) (x : Config.BusEvent) : (s.access x).a = s.a := rfl
@[simp] theorem State.access_f (s : State) (x : Config.BusEvent) : (s.access x).f = s.f := rfl
@[simp] theorem State.access_b (s : State) (x : Config.BusEvent) : (s.access x).b = s.b := rfl
@[simp] theorem State.access_c (s : State) (x : Config.BusEvent) : (s.access x).c = s.c := rfl
@[simp] theorem State.access_d (s : State) (x : Config.BusEvent) : (s.access x).d = s.d := rfl
@[simp] theorem State.access_e (s : State) (x : Config.BusEvent) : (s.access x).e = s.e := rfl
@[simp] theorem State.access_h (s : State) (x : Config.BusEvent) : (s.access x).h = s.h := rfl
@[simp] theorem State.access_l (s : State) (x : Config.BusEvent) : (s.access x).l = s.l := rfl
@[simp] theorem State.access_sp (s : State) (x : Config.BusEvent) : (s.access x).sp = s.sp := rfl
@[simp] theorem State.access_pc (s : State) (x : Config.BusEvent) : (s.access x).pc = s.pc := rfl
@[simp] theorem State.access_ime (s : State) (x : Config.BusEvent) : (s.access x).ime = s.ime := rfl
@[simp] theorem State.access_ifReg (s : State) (x : Config.BusEvent) : (s.access x).ifReg = s.ifReg := rfl
@[simp] theorem State.access_ieReg (s : State) (x : Config.BusEvent) : (s.access x).ieReg = s.ieReg := rfl
@[simp] theorem State.access_halted (s : State) (x : Config.BusEvent) : (s.access x).halted = s.halted := rfl
@[simp] theorem State.access_fatal (s : State) (x : Config.BusEvent) : (s.access x).fatal = s.fatal := rfl
@[simp] theorem State.access_platform (s : State) (x : Config.BusEvent) : (s.access x).platform = s.platform := rfl
@[simp] theorem State.access_env (s : State) (x : Config.BusEvent) : (s.access x).env = s.env := rfl

/-! ## `afterRead8` -/

@[simp] theorem State.afterRead8_a (s : State) (x : Word) : (s.afterRead8 x).a = s.a := rfl
@[simp] theorem State.afterRead8_f (s : State) (x : Word) : (s.afterRead8 x).f = s.f := rfl
@[simp] theorem State.afterRead8_b (s : State) (x : Word) : (s.afterRead8 x).b = s.b := rfl
@[simp] theorem State.afterRead8_c (s : State) (x : Word) : (s.afterRead8 x).c = s.c := rfl
@[simp] theorem State.afterRead8_d (s : State) (x : Word) : (s.afterRead8 x).d = s.d := rfl
@[simp] theorem State.afterRead8_e (s : State) (x : Word) : (s.afterRead8 x).e = s.e := rfl
@[simp] theorem State.afterRead8_h (s : State) (x : Word) : (s.afterRead8 x).h = s.h := rfl
@[simp] theorem State.afterRead8_l (s : State) (x : Word) : (s.afterRead8 x).l = s.l := rfl
@[simp] theorem State.afterRead8_sp (s : State) (x : Word) : (s.afterRead8 x).sp = s.sp := rfl
@[simp] theorem State.afterRead8_pc (s : State) (x : Word) : (s.afterRead8 x).pc = s.pc := rfl
@[simp] theorem State.afterRead8_ime (s : State) (x : Word) : (s.afterRead8 x).ime = s.ime := rfl
@[simp] theorem State.afterRead8_ifReg (s : State) (x : Word) : (s.afterRead8 x).ifReg = s.ifReg := rfl
@[simp] theorem State.afterRead8_ieReg (s : State) (x : Word) : (s.afterRead8 x).ieReg = s.ieReg := rfl
@[simp] theorem State.afterRead8_halted (s : State) (x : Word) : (s.afterRead8 x).halted = s.halted := rfl
@[simp] theorem State.afterRead8_fatal (s : State) (x : Word) : (s.afterRead8 x).fatal = s.fatal := rfl
@[simp] theorem State.afterRead8_mem (s : State) (x : Word) : (s.afterRead8 x).mem = s.mem := rfl
@[simp] theorem State.afterRead8_platform (s : State) (x : Word) : (s.afterRead8 x).platform = s.platform := rfl
@[simp] theorem State.afterRead8_env (s : State) (x : Word) : (s.afterRead8 x).env = s.env := rfl

/-! ## `write8` -/

@[simp] theorem State.write8_a (s : State) (x : Word) (v : Byte) : (s.write8 x v).a = s.a := rfl
@[simp] theorem State.write8_f (s : State) (x : Word) (v : Byte) : (s.write8 x v).f = s.f := rfl
@[simp] theorem State.write8_b (s : State) (x : Word) (v : Byte) : (s.write8 x v).b = s.b := rfl
@[simp] theorem State.write8_c (s : State) (x : Word) (v : Byte) : (s.write8 x v).c = s.c := rfl
@[simp] theorem State.write8_d (s : State) (x : Word) (v : Byte) : (s.write8 x v).d = s.d := rfl
@[simp] theorem State.write8_e (s : State) (x : Word) (v : Byte) : (s.write8 x v).e = s.e := rfl
@[simp] theorem State.write8_h (s : State) (x : Word) (v : Byte) : (s.write8 x v).h = s.h := rfl
@[simp] theorem State.write8_l (s : State) (x : Word) (v : Byte) : (s.write8 x v).l = s.l := rfl
@[simp] theorem State.write8_sp (s : State) (x : Word) (v : Byte) : (s.write8 x v).sp = s.sp := rfl
@[simp] theorem State.write8_pc (s : State) (x : Word) (v : Byte) : (s.write8 x v).pc = s.pc := rfl
@[simp] theorem State.write8_ime (s : State) (x : Word) (v : Byte) : (s.write8 x v).ime = s.ime := rfl
@[simp] theorem State.write8_ifReg (s : State) (x : Word) (v : Byte) : (s.write8 x v).ifReg = s.ifReg := rfl
@[simp] theorem State.write8_ieReg (s : State) (x : Word) (v : Byte) : (s.write8 x v).ieReg = s.ieReg := rfl
@[simp] theorem State.write8_halted (s : State) (x : Word) (v : Byte) : (s.write8 x v).halted = s.halted := rfl
@[simp] theorem State.write8_fatal (s : State) (x : Word) (v : Byte) : (s.write8 x v).fatal = s.fatal := rfl
@[simp] theorem State.write8_platform (s : State) (x : Word) (v : Byte) : (s.write8 x v).platform = s.platform := rfl
@[simp] theorem State.write8_env (s : State) (x : Word) (v : Byte) : (s.write8 x v).env = s.env := rfl

/-! ## `afterRead16In` -/

@[simp] theorem State.afterRead16In_a (o : Config.WordAccessOrder) (s : State) (x : Word) : (State.afterRead16In o s x).a = s.a := by cases o <;> rfl
@[simp] theorem State.afterRead16In_f (o : Config.WordAccessOrder) (s : State) (x : Word) : (State.afterRead16In o s x).f = s.f := by cases o <;> rfl
@[simp] theorem State.afterRead16In_b (o : Config.WordAccessOrder) (s : State) (x : Word) : (State.afterRead16In o s x).b = s.b := by cases o <;> rfl
@[simp] theorem State.afterRead16In_c (o : Config.WordAccessOrder) (s : State) (x : Word) : (State.afterRead16In o s x).c = s.c := by cases o <;> rfl
@[simp] theorem State.afterRead16In_d (o : Config.WordAccessOrder) (s : State) (x : Word) : (State.afterRead16In o s x).d = s.d := by cases o <;> rfl
@[simp] theorem State.afterRead16In_e (o : Config.WordAccessOrder) (s : State) (x : Word) : (State.afterRead16In o s x).e = s.e := by cases o <;> rfl
@[simp] theorem State.afterRead16In_h (o : Config.WordAccessOrder) (s : State) (x : Word) : (State.afterRead16In o s x).h = s.h := by cases o <;> rfl
@[simp] theorem State.afterRead16In_l (o : Config.WordAccessOrder) (s : State) (x : Word) : (State.afterRead16In o s x).l = s.l := by cases o <;> rfl
@[simp] theorem State.afterRead16In_sp (o : Config.WordAccessOrder) (s : State) (x : Word) : (State.afterRead16In o s x).sp = s.sp := by cases o <;> rfl
@[simp] theorem State.afterRead16In_pc (o : Config.WordAccessOrder) (s : State) (x : Word) : (State.afterRead16In o s x).pc = s.pc := by cases o <;> rfl
@[simp] theorem State.afterRead16In_ime (o : Config.WordAccessOrder) (s : State) (x : Word) : (State.afterRead16In o s x).ime = s.ime := by cases o <;> rfl
@[simp] theorem State.afterRead16In_ifReg (o : Config.WordAccessOrder) (s : State) (x : Word) : (State.afterRead16In o s x).ifReg = s.ifReg := by cases o <;> rfl
@[simp] theorem State.afterRead16In_ieReg (o : Config.WordAccessOrder) (s : State) (x : Word) : (State.afterRead16In o s x).ieReg = s.ieReg := by cases o <;> rfl
@[simp] theorem State.afterRead16In_halted (o : Config.WordAccessOrder) (s : State) (x : Word) : (State.afterRead16In o s x).halted = s.halted := by cases o <;> rfl
@[simp] theorem State.afterRead16In_fatal (o : Config.WordAccessOrder) (s : State) (x : Word) : (State.afterRead16In o s x).fatal = s.fatal := by cases o <;> rfl
@[simp] theorem State.afterRead16In_mem (o : Config.WordAccessOrder) (s : State) (x : Word) : (State.afterRead16In o s x).mem = s.mem := by cases o <;> rfl
@[simp] theorem State.afterRead16In_platform (o : Config.WordAccessOrder) (s : State) (x : Word) : (State.afterRead16In o s x).platform = s.platform := by cases o <;> rfl
@[simp] theorem State.afterRead16In_env (o : Config.WordAccessOrder) (s : State) (x : Word) : (State.afterRead16In o s x).env = s.env := by cases o <;> rfl

/-! ## `afterRead16` -/

@[simp] theorem State.afterRead16_a (s : State) (x : Word) : (s.afterRead16 x).a = s.a := by simp [State.afterRead16]
@[simp] theorem State.afterRead16_f (s : State) (x : Word) : (s.afterRead16 x).f = s.f := by simp [State.afterRead16]
@[simp] theorem State.afterRead16_b (s : State) (x : Word) : (s.afterRead16 x).b = s.b := by simp [State.afterRead16]
@[simp] theorem State.afterRead16_c (s : State) (x : Word) : (s.afterRead16 x).c = s.c := by simp [State.afterRead16]
@[simp] theorem State.afterRead16_d (s : State) (x : Word) : (s.afterRead16 x).d = s.d := by simp [State.afterRead16]
@[simp] theorem State.afterRead16_e (s : State) (x : Word) : (s.afterRead16 x).e = s.e := by simp [State.afterRead16]
@[simp] theorem State.afterRead16_h (s : State) (x : Word) : (s.afterRead16 x).h = s.h := by simp [State.afterRead16]
@[simp] theorem State.afterRead16_l (s : State) (x : Word) : (s.afterRead16 x).l = s.l := by simp [State.afterRead16]
@[simp] theorem State.afterRead16_sp (s : State) (x : Word) : (s.afterRead16 x).sp = s.sp := by simp [State.afterRead16]
@[simp] theorem State.afterRead16_pc (s : State) (x : Word) : (s.afterRead16 x).pc = s.pc := by simp [State.afterRead16]
@[simp] theorem State.afterRead16_ime (s : State) (x : Word) : (s.afterRead16 x).ime = s.ime := by simp [State.afterRead16]
@[simp] theorem State.afterRead16_ifReg (s : State) (x : Word) : (s.afterRead16 x).ifReg = s.ifReg := by simp [State.afterRead16]
@[simp] theorem State.afterRead16_ieReg (s : State) (x : Word) : (s.afterRead16 x).ieReg = s.ieReg := by simp [State.afterRead16]
@[simp] theorem State.afterRead16_halted (s : State) (x : Word) : (s.afterRead16 x).halted = s.halted := by simp [State.afterRead16]
@[simp] theorem State.afterRead16_fatal (s : State) (x : Word) : (s.afterRead16 x).fatal = s.fatal := by simp [State.afterRead16]
@[simp] theorem State.afterRead16_mem (s : State) (x : Word) : (s.afterRead16 x).mem = s.mem := by simp [State.afterRead16]
@[simp] theorem State.afterRead16_platform (s : State) (x : Word) : (s.afterRead16 x).platform = s.platform := by simp [State.afterRead16]
@[simp] theorem State.afterRead16_env (s : State) (x : Word) : (s.afterRead16 x).env = s.env := by simp [State.afterRead16]

/-! ## `write16In` -/

@[simp] theorem State.write16In_a (o : Config.WordAccessOrder) (s : State) (x v : Word) : (State.write16In o s x v).a = s.a := by cases o <;> rfl
@[simp] theorem State.write16In_f (o : Config.WordAccessOrder) (s : State) (x v : Word) : (State.write16In o s x v).f = s.f := by cases o <;> rfl
@[simp] theorem State.write16In_b (o : Config.WordAccessOrder) (s : State) (x v : Word) : (State.write16In o s x v).b = s.b := by cases o <;> rfl
@[simp] theorem State.write16In_c (o : Config.WordAccessOrder) (s : State) (x v : Word) : (State.write16In o s x v).c = s.c := by cases o <;> rfl
@[simp] theorem State.write16In_d (o : Config.WordAccessOrder) (s : State) (x v : Word) : (State.write16In o s x v).d = s.d := by cases o <;> rfl
@[simp] theorem State.write16In_e (o : Config.WordAccessOrder) (s : State) (x v : Word) : (State.write16In o s x v).e = s.e := by cases o <;> rfl
@[simp] theorem State.write16In_h (o : Config.WordAccessOrder) (s : State) (x v : Word) : (State.write16In o s x v).h = s.h := by cases o <;> rfl
@[simp] theorem State.write16In_l (o : Config.WordAccessOrder) (s : State) (x v : Word) : (State.write16In o s x v).l = s.l := by cases o <;> rfl
@[simp] theorem State.write16In_sp (o : Config.WordAccessOrder) (s : State) (x v : Word) : (State.write16In o s x v).sp = s.sp := by cases o <;> rfl
@[simp] theorem State.write16In_pc (o : Config.WordAccessOrder) (s : State) (x v : Word) : (State.write16In o s x v).pc = s.pc := by cases o <;> rfl
@[simp] theorem State.write16In_ime (o : Config.WordAccessOrder) (s : State) (x v : Word) : (State.write16In o s x v).ime = s.ime := by cases o <;> rfl
@[simp] theorem State.write16In_ifReg (o : Config.WordAccessOrder) (s : State) (x v : Word) : (State.write16In o s x v).ifReg = s.ifReg := by cases o <;> rfl
@[simp] theorem State.write16In_ieReg (o : Config.WordAccessOrder) (s : State) (x v : Word) : (State.write16In o s x v).ieReg = s.ieReg := by cases o <;> rfl
@[simp] theorem State.write16In_halted (o : Config.WordAccessOrder) (s : State) (x v : Word) : (State.write16In o s x v).halted = s.halted := by cases o <;> rfl
@[simp] theorem State.write16In_fatal (o : Config.WordAccessOrder) (s : State) (x v : Word) : (State.write16In o s x v).fatal = s.fatal := by cases o <;> rfl
@[simp] theorem State.write16In_platform (o : Config.WordAccessOrder) (s : State) (x v : Word) : (State.write16In o s x v).platform = s.platform := by cases o <;> rfl
@[simp] theorem State.write16In_env (o : Config.WordAccessOrder) (s : State) (x v : Word) : (State.write16In o s x v).env = s.env := by cases o <;> rfl

/-! ## `write16` -/

@[simp] theorem State.write16_a (s : State) (x v : Word) : (s.write16 x v).a = s.a := by simp [State.write16]
@[simp] theorem State.write16_f (s : State) (x v : Word) : (s.write16 x v).f = s.f := by simp [State.write16]
@[simp] theorem State.write16_b (s : State) (x v : Word) : (s.write16 x v).b = s.b := by simp [State.write16]
@[simp] theorem State.write16_c (s : State) (x v : Word) : (s.write16 x v).c = s.c := by simp [State.write16]
@[simp] theorem State.write16_d (s : State) (x v : Word) : (s.write16 x v).d = s.d := by simp [State.write16]
@[simp] theorem State.write16_e (s : State) (x v : Word) : (s.write16 x v).e = s.e := by simp [State.write16]
@[simp] theorem State.write16_h (s : State) (x v : Word) : (s.write16 x v).h = s.h := by simp [State.write16]
@[simp] theorem State.write16_l (s : State) (x v : Word) : (s.write16 x v).l = s.l := by simp [State.write16]
@[simp] theorem State.write16_sp (s : State) (x v : Word) : (s.write16 x v).sp = s.sp := by simp [State.write16]
@[simp] theorem State.write16_pc (s : State) (x v : Word) : (s.write16 x v).pc = s.pc := by simp [State.write16]
@[simp] theorem State.write16_ime (s : State) (x v : Word) : (s.write16 x v).ime = s.ime := by simp [State.write16]
@[simp] theorem State.write16_ifReg (s : State) (x v : Word) : (s.write16 x v).ifReg = s.ifReg := by simp [State.write16]
@[simp] theorem State.write16_ieReg (s : State) (x v : Word) : (s.write16 x v).ieReg = s.ieReg := by simp [State.write16]
@[simp] theorem State.write16_halted (s : State) (x v : Word) : (s.write16 x v).halted = s.halted := by simp [State.write16]
@[simp] theorem State.write16_fatal (s : State) (x v : Word) : (s.write16 x v).fatal = s.fatal := by simp [State.write16]
@[simp] theorem State.write16_platform (s : State) (x v : Word) : (s.write16 x v).platform = s.platform := by simp [State.write16]
@[simp] theorem State.write16_env (s : State) (x v : Word) : (s.write16 x v).env = s.env := by simp [State.write16]

/-! ## `advancePC` -/

@[simp] theorem State.advancePC_a (s : State) (n : Word) : (s.advancePC n).a = s.a := rfl
@[simp] theorem State.advancePC_f (s : State) (n : Word) : (s.advancePC n).f = s.f := rfl
@[simp] theorem State.advancePC_b (s : State) (n : Word) : (s.advancePC n).b = s.b := rfl
@[simp] theorem State.advancePC_c (s : State) (n : Word) : (s.advancePC n).c = s.c := rfl
@[simp] theorem State.advancePC_d (s : State) (n : Word) : (s.advancePC n).d = s.d := rfl
@[simp] theorem State.advancePC_e (s : State) (n : Word) : (s.advancePC n).e = s.e := rfl
@[simp] theorem State.advancePC_h (s : State) (n : Word) : (s.advancePC n).h = s.h := rfl
@[simp] theorem State.advancePC_l (s : State) (n : Word) : (s.advancePC n).l = s.l := rfl
@[simp] theorem State.advancePC_sp (s : State) (n : Word) : (s.advancePC n).sp = s.sp := rfl
@[simp] theorem State.advancePC_ime (s : State) (n : Word) : (s.advancePC n).ime = s.ime := rfl
@[simp] theorem State.advancePC_ifReg (s : State) (n : Word) : (s.advancePC n).ifReg = s.ifReg := rfl
@[simp] theorem State.advancePC_ieReg (s : State) (n : Word) : (s.advancePC n).ieReg = s.ieReg := rfl
@[simp] theorem State.advancePC_halted (s : State) (n : Word) : (s.advancePC n).halted = s.halted := rfl
@[simp] theorem State.advancePC_fatal (s : State) (n : Word) : (s.advancePC n).fatal = s.fatal := rfl
@[simp] theorem State.advancePC_mem (s : State) (n : Word) : (s.advancePC n).mem = s.mem := rfl
@[simp] theorem State.advancePC_platform (s : State) (n : Word) : (s.advancePC n).platform = s.platform := rfl
@[simp] theorem State.advancePC_busLog (s : State) (n : Word) : (s.advancePC n).busLog = s.busLog := rfl
@[simp] theorem State.advancePC_env (s : State) (n : Word) : (s.advancePC n).env = s.env := rfl

/-! ## `jump` -/

@[simp] theorem State.jump_a (s : State) (t : Word) : (s.jump t).a = s.a := rfl
@[simp] theorem State.jump_f (s : State) (t : Word) : (s.jump t).f = s.f := rfl
@[simp] theorem State.jump_b (s : State) (t : Word) : (s.jump t).b = s.b := rfl
@[simp] theorem State.jump_c (s : State) (t : Word) : (s.jump t).c = s.c := rfl
@[simp] theorem State.jump_d (s : State) (t : Word) : (s.jump t).d = s.d := rfl
@[simp] theorem State.jump_e (s : State) (t : Word) : (s.jump t).e = s.e := rfl
@[simp] theorem State.jump_h (s : State) (t : Word) : (s.jump t).h = s.h := rfl
@[simp] theorem State.jump_l (s : State) (t : Word) : (s.jump t).l = s.l := rfl
@[simp] theorem State.jump_sp (s : State) (t : Word) : (s.jump t).sp = s.sp := rfl
@[simp] theorem State.jump_ime (s : State) (t : Word) : (s.jump t).ime = s.ime := rfl
@[simp] theorem State.jump_ifReg (s : State) (t : Word) : (s.jump t).ifReg = s.ifReg := rfl
@[simp] theorem State.jump_ieReg (s : State) (t : Word) : (s.jump t).ieReg = s.ieReg := rfl
@[simp] theorem State.jump_halted (s : State) (t : Word) : (s.jump t).halted = s.halted := rfl
@[simp] theorem State.jump_fatal (s : State) (t : Word) : (s.jump t).fatal = s.fatal := rfl
@[simp] theorem State.jump_mem (s : State) (t : Word) : (s.jump t).mem = s.mem := rfl
@[simp] theorem State.jump_platform (s : State) (t : Word) : (s.jump t).platform = s.platform := rfl
@[simp] theorem State.jump_busLog (s : State) (t : Word) : (s.jump t).busLog = s.busLog := rfl
@[simp] theorem State.jump_env (s : State) (t : Word) : (s.jump t).env = s.env := rfl

/-! ## `load8` -/

@[simp] theorem State.load8_f (s : State) (r : Reg8) (x : Word) : (s.load8 r x).f = s.f := by simp [State.load8]
@[simp] theorem State.load8_sp (s : State) (r : Reg8) (x : Word) : (s.load8 r x).sp = s.sp := by simp [State.load8]
@[simp] theorem State.load8_pc (s : State) (r : Reg8) (x : Word) : (s.load8 r x).pc = s.pc := by simp [State.load8]
@[simp] theorem State.load8_ime (s : State) (r : Reg8) (x : Word) : (s.load8 r x).ime = s.ime := by simp [State.load8]
@[simp] theorem State.load8_ifReg (s : State) (r : Reg8) (x : Word) : (s.load8 r x).ifReg = s.ifReg := by simp [State.load8]
@[simp] theorem State.load8_ieReg (s : State) (r : Reg8) (x : Word) : (s.load8 r x).ieReg = s.ieReg := by simp [State.load8]
@[simp] theorem State.load8_halted (s : State) (r : Reg8) (x : Word) : (s.load8 r x).halted = s.halted := by simp [State.load8]
@[simp] theorem State.load8_fatal (s : State) (r : Reg8) (x : Word) : (s.load8 r x).fatal = s.fatal := by simp [State.load8]
@[simp] theorem State.load8_mem (s : State) (r : Reg8) (x : Word) : (s.load8 r x).mem = s.mem := by simp [State.load8]
@[simp] theorem State.load8_platform (s : State) (r : Reg8) (x : Word) : (s.load8 r x).platform = s.platform := by simp [State.load8]
@[simp] theorem State.load8_env (s : State) (r : Reg8) (x : Word) : (s.load8 r x).env = s.env := by simp [State.load8]

/-! ## `push16` -/

@[simp] theorem State.push16_a (s : State) (v : Word) : (s.push16 v).a = s.a := by simp [State.push16]
@[simp] theorem State.push16_f (s : State) (v : Word) : (s.push16 v).f = s.f := by simp [State.push16]
@[simp] theorem State.push16_b (s : State) (v : Word) : (s.push16 v).b = s.b := by simp [State.push16]
@[simp] theorem State.push16_c (s : State) (v : Word) : (s.push16 v).c = s.c := by simp [State.push16]
@[simp] theorem State.push16_d (s : State) (v : Word) : (s.push16 v).d = s.d := by simp [State.push16]
@[simp] theorem State.push16_e (s : State) (v : Word) : (s.push16 v).e = s.e := by simp [State.push16]
@[simp] theorem State.push16_h (s : State) (v : Word) : (s.push16 v).h = s.h := by simp [State.push16]
@[simp] theorem State.push16_l (s : State) (v : Word) : (s.push16 v).l = s.l := by simp [State.push16]
@[simp] theorem State.push16_pc (s : State) (v : Word) : (s.push16 v).pc = s.pc := by simp [State.push16]
@[simp] theorem State.push16_ime (s : State) (v : Word) : (s.push16 v).ime = s.ime := by simp [State.push16]
@[simp] theorem State.push16_ifReg (s : State) (v : Word) : (s.push16 v).ifReg = s.ifReg := by simp [State.push16]
@[simp] theorem State.push16_ieReg (s : State) (v : Word) : (s.push16 v).ieReg = s.ieReg := by simp [State.push16]
@[simp] theorem State.push16_halted (s : State) (v : Word) : (s.push16 v).halted = s.halted := by simp [State.push16]
@[simp] theorem State.push16_fatal (s : State) (v : Word) : (s.push16 v).fatal = s.fatal := by simp [State.push16]
@[simp] theorem State.push16_platform (s : State) (v : Word) : (s.push16 v).platform = s.platform := by simp [State.push16]
@[simp] theorem State.push16_env (s : State) (v : Word) : (s.push16 v).env = s.env := by simp [State.push16]

/-! ## `raiseFatal` -/

@[simp] theorem State.raiseFatal_a (s : State) (y : Fault) : (s.raiseFatal y).a = s.a := rfl
@[simp] theorem State.raiseFatal_f (s : State) (y : Fault) : (s.raiseFatal y).f = s.f := rfl
@[simp] theorem State.raiseFatal_b (s : State) (y : Fault) : (s.raiseFatal y).b = s.b := rfl
@[simp] theorem State.raiseFatal_c (s : State) (y : Fault) : (s.raiseFatal y).c = s.c := rfl
@[simp] theorem State.raiseFatal_d (s : State) (y : Fault) : (s.raiseFatal y).d = s.d := rfl
@[simp] theorem State.raiseFatal_e (s : State) (y : Fault) : (s.raiseFatal y).e = s.e := rfl
@[simp] theorem State.raiseFatal_h (s : State) (y : Fault) : (s.raiseFatal y).h = s.h := rfl
@[simp] theorem State.raiseFatal_l (s : State) (y : Fault) : (s.raiseFatal y).l = s.l := rfl
@[simp] theorem State.raiseFatal_sp (s : State) (y : Fault) : (s.raiseFatal y).sp = s.sp := rfl
@[simp] theorem State.raiseFatal_pc (s : State) (y : Fault) : (s.raiseFatal y).pc = s.pc := rfl
@[simp] theorem State.raiseFatal_ime (s : State) (y : Fault) : (s.raiseFatal y).ime = s.ime := rfl
@[simp] theorem State.raiseFatal_ifReg (s : State) (y : Fault) : (s.raiseFatal y).ifReg = s.ifReg := rfl
@[simp] theorem State.raiseFatal_ieReg (s : State) (y : Fault) : (s.raiseFatal y).ieReg = s.ieReg := rfl
@[simp] theorem State.raiseFatal_halted (s : State) (y : Fault) : (s.raiseFatal y).halted = s.halted := rfl
@[simp] theorem State.raiseFatal_mem (s : State) (y : Fault) : (s.raiseFatal y).mem = s.mem := rfl
@[simp] theorem State.raiseFatal_platform (s : State) (y : Fault) : (s.raiseFatal y).platform = s.platform := rfl
@[simp] theorem State.raiseFatal_busLog (s : State) (y : Fault) : (s.raiseFatal y).busLog = s.busLog := rfl
@[simp] theorem State.raiseFatal_env (s : State) (y : Fault) : (s.raiseFatal y).env = s.env := rfl

/-! ## `dispatch` -/

@[simp] theorem State.dispatch_a (s : State) (i : Source) : (s.dispatch i).a = s.a := by simp [State.dispatch]
@[simp] theorem State.dispatch_f (s : State) (i : Source) : (s.dispatch i).f = s.f := by simp [State.dispatch]
@[simp] theorem State.dispatch_b (s : State) (i : Source) : (s.dispatch i).b = s.b := by simp [State.dispatch]
@[simp] theorem State.dispatch_c (s : State) (i : Source) : (s.dispatch i).c = s.c := by simp [State.dispatch]
@[simp] theorem State.dispatch_d (s : State) (i : Source) : (s.dispatch i).d = s.d := by simp [State.dispatch]
@[simp] theorem State.dispatch_e (s : State) (i : Source) : (s.dispatch i).e = s.e := by simp [State.dispatch]
@[simp] theorem State.dispatch_h (s : State) (i : Source) : (s.dispatch i).h = s.h := by simp [State.dispatch]
@[simp] theorem State.dispatch_l (s : State) (i : Source) : (s.dispatch i).l = s.l := by simp [State.dispatch]
@[simp] theorem State.dispatch_ieReg (s : State) (i : Source) : (s.dispatch i).ieReg = s.ieReg := by simp [State.dispatch]
@[simp] theorem State.dispatch_fatal (s : State) (i : Source) : (s.dispatch i).fatal = s.fatal := by simp [State.dispatch]
@[simp] theorem State.dispatch_platform (s : State) (i : Source) : (s.dispatch i).platform = s.platform := by simp [State.dispatch]
@[simp] theorem State.dispatch_env (s : State) (i : Source) : (s.dispatch i).env = s.env := by simp [State.dispatch]

/-! ## No operation moves the extent of the platform -/

@[simp] theorem State.set8_onPlatform (s : State) (r : Reg8) (v : Byte) (at_ : Word) :
    (s.set8 r v).onPlatform at_ = s.onPlatform at_ := by simp [State.onPlatform]
@[simp] theorem State.set16_onPlatform (s : State) (r : Reg16) (w : Word) (at_ : Word) :
    (s.set16 r w).onPlatform at_ = s.onPlatform at_ := by simp [State.onPlatform]
@[simp] theorem State.setF_onPlatform (s : State) (v : Byte) (at_ : Word) :
    (s.setF v).onPlatform at_ = s.onPlatform at_ := by simp [State.onPlatform]
@[simp] theorem State.access_onPlatform (s : State) (x : Config.BusEvent) (at_ : Word) :
    (s.access x).onPlatform at_ = s.onPlatform at_ := by simp [State.onPlatform]
@[simp] theorem State.afterRead8_onPlatform (s : State) (x : Word) (at_ : Word) :
    (s.afterRead8 x).onPlatform at_ = s.onPlatform at_ := by simp [State.onPlatform]
@[simp] theorem State.write8_onPlatform (s : State) (x : Word) (v : Byte) (at_ : Word) :
    (s.write8 x v).onPlatform at_ = s.onPlatform at_ := by simp [State.onPlatform]
@[simp] theorem State.afterRead16In_onPlatform (o : Config.WordAccessOrder) (s : State) (x : Word) (at_ : Word) :
    (State.afterRead16In o s x).onPlatform at_ = s.onPlatform at_ := by simp [State.onPlatform]
@[simp] theorem State.afterRead16_onPlatform (s : State) (x : Word) (at_ : Word) :
    (s.afterRead16 x).onPlatform at_ = s.onPlatform at_ := by simp [State.onPlatform]
@[simp] theorem State.write16In_onPlatform (o : Config.WordAccessOrder) (s : State) (x v : Word) (at_ : Word) :
    (State.write16In o s x v).onPlatform at_ = s.onPlatform at_ := by simp [State.onPlatform]
@[simp] theorem State.write16_onPlatform (s : State) (x v : Word) (at_ : Word) :
    (s.write16 x v).onPlatform at_ = s.onPlatform at_ := by simp [State.onPlatform]
@[simp] theorem State.advancePC_onPlatform (s : State) (n : Word) (at_ : Word) :
    (s.advancePC n).onPlatform at_ = s.onPlatform at_ := by simp [State.onPlatform]
@[simp] theorem State.jump_onPlatform (s : State) (t : Word) (at_ : Word) :
    (s.jump t).onPlatform at_ = s.onPlatform at_ := by simp [State.onPlatform]
@[simp] theorem State.load8_onPlatform (s : State) (r : Reg8) (x : Word) (at_ : Word) :
    (s.load8 r x).onPlatform at_ = s.onPlatform at_ := by simp [State.onPlatform]
@[simp] theorem State.push16_onPlatform (s : State) (v : Word) (at_ : Word) :
    (s.push16 v).onPlatform at_ = s.onPlatform at_ := by simp [State.onPlatform]
@[simp] theorem State.raiseFatal_onPlatform (s : State) (y : Fault) (at_ : Word) :
    (s.raiseFatal y).onPlatform at_ = s.onPlatform at_ := by simp [State.onPlatform]
@[simp] theorem State.dispatch_onPlatform (s : State) (i : Source) (at_ : Word) :
    (s.dispatch i).onPlatform at_ = s.onPlatform at_ := by simp [State.onPlatform]

/-! ## The fields the updates write -/

@[simp] theorem State.setF_f (s : State) (v : Byte) : (s.setF v).f = maskF v := rfl
@[simp] theorem State.access_mem (s : State) (x : Config.BusEvent) : (s.access x).mem = s.memAfter x := rfl
@[simp] theorem State.access_busLog (s : State) (x : Config.BusEvent) : (s.access x).busLog = s.logAfter x := rfl
@[simp] theorem State.advancePC_pc (s : State) (n : Word) : (s.advancePC n).pc = s.pc + n := rfl
@[simp] theorem State.jump_pc (s : State) (t : Word) : (s.jump t).pc = t := rfl
@[simp] theorem State.push16_sp (s : State) (v : Word) : (s.push16 v).sp = s.sp - 2 := by simp [State.push16]
@[simp] theorem State.raiseFatal_fatal (s : State) (x : Fault) : (s.raiseFatal x).fatal = some x := rfl
@[simp] theorem State.dispatch_sp (s : State) (i : Source) : (s.dispatch i).sp = s.sp - 2 := by simp [State.dispatch]
@[simp] theorem State.dispatch_pc (s : State) (i : Source) : (s.dispatch i).pc = i.vector := rfl
@[simp] theorem State.dispatch_ime (s : State) (i : Source) : (s.dispatch i).ime = false := rfl
@[simp] theorem State.dispatch_ifReg (s : State) (i : Source) : (s.dispatch i).ifReg = s.ifReg &&& ~~~i.mask := rfl
@[simp] theorem State.dispatch_halted (s : State) (i : Source) : (s.dispatch i).halted = false := rfl
@[simp] theorem State.dispatch_mem (s : State) (i : Source) : (s.dispatch i).mem = (s.push16 s.pc).mem := rfl
@[simp] theorem State.dispatch_busLog (s : State) (i : Source) : (s.dispatch i).busLog = (s.push16 s.pc).busLog := rfl

/-! ## What the bus operations change -/

theorem State.afterRead8_eq (s : State) (x : Word) : s.afterRead8 x = { s with busLog := s.logAfter (.read x) } := rfl

/-- A 16-bit read changes the platform's history alone. -/
theorem State.afterRead16In_eq (o : Config.WordAccessOrder) (s : State) (x : Word) :
    State.afterRead16In o s x = { s with busLog := (State.afterRead16In o s x).busLog } := by cases o <;> rfl

theorem State.afterRead16_eq (s : State) (x : Word) : s.afterRead16 x = { s with busLog := (s.afterRead16 x).busLog } :=
  State.afterRead16In_eq _ s x

/-- A 16-bit write changes memory and the platform's history alone. -/
theorem State.write16In_eq (o : Config.WordAccessOrder) (s : State) (x v : Word) :
    State.write16In o s x v =
      { s with mem := (State.write16In o s x v).mem, busLog := (State.write16In o s x v).busLog } := by cases o <;> rfl

theorem State.write16_eq (s : State) (x v : Word) :
    s.write16 x v = { s with mem := (s.write16 x v).mem, busLog := (s.write16 x v).busLog } := State.write16In_eq _ s x v

/-! ## Pairs and their halves -/

@[simp] theorem hi_pair (h l : Byte) : hi (pair h l) = h := by
  apply BitVec.eq_of_toNat_eq
  simp only [hi, pair, BitVec.extractLsb'_toNat, BitVec.toNat_append]
  have := l.isLt
  have := h.isLt
  rw [← Nat.shiftLeft_add_eq_or_of_lt (by omega), Nat.shiftLeft_eq, Nat.shiftRight_eq_div_pow]
  omega

@[simp] theorem lo_pair (h l : Byte) : lo (pair h l) = l := by
  apply BitVec.eq_of_toNat_eq
  simp only [lo, pair, BitVec.extractLsb'_toNat, BitVec.toNat_append]
  have := l.isLt
  rw [← Nat.shiftLeft_add_eq_or_of_lt (by omega), Nat.shiftLeft_eq, Nat.shiftRight_zero]
  omega

@[simp] theorem pair_hi_lo (w : Word) : pair (hi w) (lo w) = w := by
  apply BitVec.eq_of_toNat_eq
  have hl : (lo w).toNat < 2 ^ 8 := (lo w).isLt
  simp only [pair, BitVec.toNat_append]
  rw [← Nat.shiftLeft_add_eq_or_of_lt hl, Nat.shiftLeft_eq]
  simp only [hi, lo, BitVec.extractLsb'_toNat, Nat.shiftRight_eq_div_pow]
  have := w.isLt
  omega

/-! ## Reading after writing the register file -/

@[simp] theorem State.get8_set8_same (s : State) (r : Reg8) (v : Byte) : (s.set8 r v).get8 r = v := by cases r <;> rfl

theorem State.get8_set8_ne (s : State) (r q : Reg8) (v : Byte) (h : q ≠ r) : (s.set8 r v).get8 q = s.get8 q := by
  cases r <;> cases q <;> first | rfl | exact absurd rfl h

@[simp] theorem State.get16_set16_same (s : State) (r : Reg16) (w : Word) : (s.set16 r w).get16 r = w := by
  cases r <;> simp [State.set16, State.get16]

theorem State.get16_set16_ne (s : State) (r q : Reg16) (w : Word) (h : q ≠ r) : (s.set16 r w).get16 q = s.get16 q := by
  cases r <;> cases q <;> first | rfl | exact absurd rfl h

@[simp] theorem State.get8_write8 (s : State) (r : Reg8) (a : Word) (v : Byte) : (s.write8 a v).get8 r = s.get8 r := by
  cases r <;> rfl

@[simp] theorem State.get16_write8 (s : State) (r : Reg16) (a : Word) (v : Byte) : (s.write8 a v).get16 r = s.get16 r := by
  cases r <;> rfl

@[simp] theorem State.read8_set8 (s : State) (r : Reg8) (v : Byte) (a : Word) : (s.set8 r v).read8 a = s.read8 a := by
  simp [State.read8]

@[simp] theorem State.read8_set16 (s : State) (r : Reg16) (w a : Word) : (s.set16 r w).read8 a = s.read8 a := by
  simp [State.read8]

end Sys2Proof.Machine
end

