-- ==== Sys2Proof/Laws/Memory.lean ====
section
/-! SUPPORT. Memory: reading after writing, the canonical form kept by every operation that writes memory, and equality of
canonical memories with equal contents. -/

namespace Sys2Proof.Machine

theorem Memory.wfFrom_cons {n k : Nat} {v : Byte} {m : Memory} :
    Memory.wfFrom n ((k, v) :: m) = true ↔
      n ≤ k ∧ k < 65536 ∧ v ≠ Config.unlistedByte ∧ Memory.wfFrom (k + 1) m = true := by
  simp [Memory.wfFrom, and_assoc]

theorem Memory.wfFrom_mono {n n' : Nat} {m : Memory} (h : Memory.wfFrom n m = true) (le : n' ≤ n) :
    Memory.wfFrom n' m = true := by
  cases m with
  | nil => rfl
  | cons c m =>
    obtain ⟨k, v⟩ := c
    rw [Memory.wfFrom_cons] at h ⊢
    exact ⟨by omega, h.2⟩

/-- An address below every listed one reads as unlisted. -/
theorem Memory.read_below {n a : Nat} {m : Memory} (h : Memory.wfFrom n m = true) (lt : a < n) :
    Memory.read m a = Config.unlistedByte := by
  induction m generalizing n with
  | nil => rfl
  | cons c m ih =>
    obtain ⟨k, v⟩ := c
    rw [Memory.wfFrom_cons] at h
    rw [Memory.read, if_neg (by omega)]
    exact ih h.2.2.2 (by omega)

theorem Memory.wfFrom_consCell {n a : Nat} {v : Byte} {m : Memory} (le : n ≤ a) (lt : a < 65536)
    (h : Memory.wfFrom (a + 1) m = true) : Memory.wfFrom n (Memory.consCell a v m) = true := by
  unfold Memory.consCell
  split
  · exact Memory.wfFrom_mono h (by omega)
  · exact Memory.wfFrom_cons.mpr ⟨le, lt, by assumption, h⟩

theorem Memory.wfFrom_write {n a : Nat} {v : Byte} {m : Memory} (h : Memory.wfFrom n m = true) (le : n ≤ a)
    (lt : a < 65536) : Memory.wfFrom n (m.write a v) = true := by
  induction m generalizing n with
  | nil => exact Memory.wfFrom_consCell le lt rfl
  | cons c m ih =>
    obtain ⟨k, w⟩ := c
    have h' := Memory.wfFrom_cons.mp h
    unfold Memory.write
    split
    · exact Memory.wfFrom_consCell le lt (Memory.wfFrom_cons.mpr ⟨by omega, h'.2⟩)
    · split
      · exact Memory.wfFrom_consCell le lt (by subst_vars; exact h'.2.2.2)
      · exact Memory.wfFrom_cons.mpr ⟨h'.1, h'.2.1, h'.2.2.1, ih h'.2.2.2 (by omega)⟩

/-- A store keeps the canonical form. -/
theorem Memory.wf_write {a : Nat} {v : Byte} {m : Memory} (h : m.wf = true) (lt : a < 65536) : (m.write a v).wf = true :=
  Memory.wfFrom_write h (Nat.zero_le a) lt

theorem Memory.read_consCell_same {a n : Nat} {v : Byte} {m : Memory} (h : Memory.wfFrom n m = true) (lt : a < n) :
    Memory.read (Memory.consCell a v m) a = v := by
  unfold Memory.consCell
  split
  · rw [Memory.read_below h lt]
    exact Eq.symm (by assumption)
  · simp [Memory.read]

theorem Memory.read_consCell_ne {a b : Nat} {v : Byte} {m : Memory} (ne : b ≠ a) :
    Memory.read (Memory.consCell a v m) b = Memory.read m b := by
  unfold Memory.consCell
  split
  · rfl
  · rw [Memory.read, if_neg (Ne.symm ne)]

theorem Memory.read_write_same_from {a n : Nat} {v : Byte} {m : Memory} (h : Memory.wfFrom n m = true) :
    Memory.read (m.write a v) a = v := by
  induction m generalizing n with
  | nil => exact Memory.read_consCell_same (n := a + 1) rfl (by omega)
  | cons c m ih =>
    obtain ⟨k, w⟩ := c
    have h' := Memory.wfFrom_cons.mp h
    unfold Memory.write
    split
    · exact Memory.read_consCell_same (n := k) (Memory.wfFrom_cons.mpr ⟨Nat.le_refl k, h'.2⟩) (by omega)
    · split
      · exact Memory.read_consCell_same (n := k + 1) h'.2.2.2 (by omega)
      · rw [Memory.read, if_neg (by omega)]
        exact ih h'.2.2.2

/-- A read after a write to the same address gives the byte written. -/
theorem Memory.read_write_same {a : Nat} {v : Byte} {m : Memory} (h : m.wf = true) : Memory.read (m.write a v) a = v :=
  Memory.read_write_same_from h

/-- A write leaves every other address alone. -/
theorem Memory.read_write_ne {a b : Nat} {v : Byte} {m : Memory} (ne : b ≠ a) :
    Memory.read (m.write a v) b = Memory.read m b := by
  induction m with
  | nil => exact Memory.read_consCell_ne ne
  | cons c m ih =>
    obtain ⟨k, w⟩ := c
    unfold Memory.write
    split
    · exact Memory.read_consCell_ne ne
    · split
      · rw [Memory.read_consCell_ne ne, Memory.read, if_neg (by omega)]
      · rw [Memory.read, Memory.read, ih]

theorem Memory.eq_of_read_from {n : Nat} {m m' : Memory} (h : Memory.wfFrom n m = true) (h' : Memory.wfFrom n m' = true)
    (eq : ∀ a, Memory.read m a = Memory.read m' a) : m = m' := by
  induction m generalizing n m' with
  | nil =>
    cases m' with
    | nil => rfl
    | cons c m' =>
      obtain ⟨k, v⟩ := c
      have := eq k
      simp only [Memory.read, if_true] at this
      exact absurd this.symm (Memory.wfFrom_cons.mp h').2.2.1
  | cons c m ih =>
    obtain ⟨k, v⟩ := c
    have w := Memory.wfFrom_cons.mp h
    cases m' with
    | nil =>
      have := eq k
      simp only [Memory.read, if_true] at this
      exact absurd this w.2.2.1
    | cons c' m' =>
      obtain ⟨k', v'⟩ := c'
      have w' := Memory.wfFrom_cons.mp h'
      have same : k = k' := by
        rcases Nat.lt_trichotomy k k' with lt | e | lt
        · have := eq k
          rw [Memory.read_below (n := k') (Memory.wfFrom_cons.mpr ⟨Nat.le_refl k', w'.2⟩) lt] at this
          simp only [Memory.read, if_true] at this
          exact absurd this w.2.2.1
        · exact e
        · have := eq k'
          rw [Memory.read_below (n := k) (Memory.wfFrom_cons.mpr ⟨Nat.le_refl k, w.2⟩) lt] at this
          simp only [Memory.read, if_true] at this
          exact absurd this.symm w'.2.2.1
      subst same
      have val : v = v' := by simpa [Memory.read] using eq k
      subst val
      rw [ih w.2.2.2 w'.2.2.2 fun a => ?_]
      by_cases below : a < k + 1
      · rw [Memory.read_below w.2.2.2 below, Memory.read_below w'.2.2.2 below]
      · have := eq a
        rwa [Memory.read, Memory.read, if_neg (by omega), if_neg (by omega)] at this

/-- Canonical memories with equal contents are equal. -/
theorem Memory.eq_of_read {m m' : Memory} (h : m.wf = true) (h' : m'.wf = true)
    (eq : ∀ a, Memory.read m a = Memory.read m' a) : m = m' :=
  Memory.eq_of_read_from h h' eq

/-! ## The bus's operations -/

theorem State.memAfter_ram {s : State} {a : Word} (ram : s.onPlatform a = false) (v : Byte) :
    (s.write8 a v).mem = s.mem.write a.toNat v := if_neg (by simp [ram])

theorem State.memAfter_platform {s : State} {a : Word} (plat : s.onPlatform a = true) (v : Byte) :
    (s.write8 a v).mem = s.mem := if_pos plat

/-- An event at an address that is flat RAM leaves the platform's history alone. -/
theorem State.logAfter_ram {s : State} {x : Config.BusEvent} (ram : s.onPlatform (addrOf x) = false) :
    s.logAfter x = s.busLog := if_neg (by simp [ram])

theorem State.logAfter_platform {s : State} {x : Config.BusEvent} (plat : s.onPlatform (addrOf x) = true) :
    s.logAfter x = x :: s.busLog := if_pos plat

/-- A read of flat RAM changes nothing. -/
theorem State.afterRead8_ram {s : State} {a : Word} (ram : s.onPlatform a = false) : s.afterRead8 a = s := by
  rw [State.afterRead8_eq, State.logAfter_ram ram]

/-- With a byte of the word in flat RAM the order is the one given. -/
theorem State.wordOrder_ram {s : State} {a : Word} (o : Config.WordAccessOrder)
    (ram : s.onPlatform a = false ∨ s.onPlatform (a + 1) = false) : s.wordOrder o a = o := by
  rw [State.wordOrder]
  rcases ram with h | h <;> rw [h]
  · rfl
  · rw [Bool.and_false]; rfl

/-- With both bytes the platform's the order is free, whichever one was given. -/
theorem State.wordOrder_platform {s : State} {a : Word} (o : Config.WordAccessOrder) (first : s.onPlatform a = true)
    (second : s.onPlatform (a + 1) = true) : s.wordOrder o a = Config.wordAccessOrder s.busLog a := by
  rw [State.wordOrder, first, second]
  rfl

theorem State.wf_access {s : State} (h : s.mem.wf = true) (x : Config.BusEvent) : (s.access x).mem.wf = true := by
  cases x with
  | read a => exact h
  | write a v => rw [State.access_mem, State.memAfter]; split; exacts [h, Memory.wf_write h a.isLt]
  | outside a v => rw [State.access_mem, State.memAfter]; split; exacts [h, Memory.wf_write h a.isLt]

theorem State.wf_write8 {s : State} (h : s.mem.wf = true) (a : Word) (v : Byte) : (s.write8 a v).mem.wf = true :=
  State.wf_access h _

theorem State.wf_write16In {s : State} (h : s.mem.wf = true) (o : Config.WordAccessOrder) (a v : Word) :
    (State.write16In o s a v).mem.wf = true := by
  cases o <;> exact State.wf_write8 (State.wf_write8 h _ _) _ _

theorem State.wf_write16 {s : State} (h : s.mem.wf = true) (a v : Word) : (s.write16 a v).mem.wf = true :=
  State.wf_write16In h _ a v

theorem State.wf_push16 {s : State} (h : s.mem.wf = true) (v : Word) : (s.push16 v).mem.wf = true :=
  State.wf_write16 (s := { s with sp := s.sp - 2 }) h _ _

theorem State.wf_dispatch {s : State} (h : s.mem.wf = true) (i : Source) : (s.dispatch i).mem.wf = true :=
  State.wf_push16 h s.pc

theorem State.wf_replay {s : State} (h : s.mem.wf = true) (xs : List Config.BusEvent) : (s.replay xs).mem.wf = true := by
  induction xs generalizing s with
  | nil => exact h
  | cons x xs ih => exact ih (State.wf_access h x)

theorem State.wf_envMove {s : State} (h : s.mem.wf = true) (m : EnvMove) : (s.envMove m).mem.wf = true := by
  cases m with
  | setMem a v => exact State.wf_access h _
  | request _ => exact h
  | setIF _ => exact h
  | setIE _ => exact h

theorem State.wf_envMoves {s : State} (h : s.mem.wf = true) (ms : List EnvMove) : (State.envMoves ms s).mem.wf = true := by
  induction ms generalizing s with
  | nil => exact h
  | cons m ms ih => exact ih (State.wf_envMove h m)

theorem State.wf_boundary {s : State} (h : s.mem.wf = true) : s.boundary.mem.wf = true := by
  unfold State.boundary
  split
  · exact h
  · next batch rest _ => exact State.wf_envMoves (s := { s with env := rest }) h batch

theorem State.wf_placeBytes {s : State} (h : s.mem.wf = true) (bs : List Byte) (a : Word) :
    (State.placeBytes bs a s).mem.wf = true := by
  induction bs generalizing s a with
  | nil => exact h
  | cons b bs ih => exact ih (State.wf_write8 h a b) _

theorem State.wf_withFetchWord {s : State} (h : s.mem.wf = true) (nbits w : Nat) : (s.withFetchWord nbits w).mem.wf = true :=
  State.wf_placeBytes (s := { s with halted := false, fatal := none, platform := _ }) h _ _

/-- Reset's memory is the bus's initial content. -/
theorem State.wf_reset (r : Config.Reset) {m : Memory} (h : m.wf = true) (p : List Span) :
    (State.resetWith r m p).mem.wf = true := h

/-- Flat RAM gives back the byte written. -/
theorem State.read8_write8_same {s : State} {a : Word} (h : s.mem.wf = true) (ram : s.onPlatform a = false) (v : Byte) :
    (s.write8 a v).read8 a = v := by
  rw [State.read8, if_neg (by simp [ram]), State.memAfter_ram ram]
  exact Memory.read_write_same h

/-- A write leaves every other byte of flat RAM alone. -/
theorem State.read8_write8_ne {s : State} {b : Word} (ram : s.onPlatform b = false) (a : Word) (v : Byte) (ne : b ≠ a) :
    (s.write8 a v).read8 b = s.read8 b := by
  rw [State.read8, State.read8, if_neg (by simp [ram]), if_neg (by simp [ram])]
  by_cases plat : s.onPlatform a = true
  · rw [State.memAfter_platform plat]
  · rw [State.memAfter_ram (by simpa using plat)]
    exact Memory.read_write_ne fun e => ne (BitVec.eq_of_toNat_eq e)

/-- A read changes no byte of flat RAM. -/
theorem State.read8_afterRead8 {s : State} {b : Word} (ram : s.onPlatform b = false) (a : Word) :
    (s.afterRead8 a).read8 b = s.read8 b := by
  simp [State.read8, ram]

/-- Events one after the other. -/
theorem State.replay_append (s : State) (xs ys : List Config.BusEvent) : s.replay (xs ++ ys) = (s.replay xs).replay ys := by
  simp [State.replay]

/-- What events do is memory and the platform's history, and depends on those and on the platform's extent alone. -/
theorem State.replay_eq (s : State) (xs : List Config.BusEvent) :
    s.replay xs = { s with mem := (s.replay xs).mem, busLog := (s.replay xs).busLog } := by
  induction xs generalizing s with
  | nil => rfl
  | cons x xs ih => exact ih (s.access x)

end Sys2Proof.Machine
end

