-- ==== Sys2Proof/Laws/Ops.lean ====
section
/-! SUPPORT. What the shared operations can do: the check, the environment's boundary, and what every instruction keeps. -/

namespace Sys2Proof.Machine

/-- A serviceable source exists exactly when the masked bits are not all zero. -/
theorem serviceable_leastSource {v w : Byte} (h : serviceable v w ≠ 0#8) : ∃ i, leastSource (serviceable v w) = some i := by
  have key : ∀ x : Byte, x &&& 0x1F ≠ 0#8 → (leastSource (x &&& 0x1F)).isSome = true := by decide
  exact Option.isSome_iff_exists.mp (key (v &&& w) h)

/-- Dispatch does not depend on IME and `halted`, which it clears. -/
theorem State.dispatch_ignores (s : State) (m b : Bool) (i : Source) :
    State.dispatch { s with ime := m, halted := b } i = s.dispatch i := by
  have either : ∀ o,
      { State.write16In o { s with ime := m, halted := b, sp := s.sp - 2 } (s.sp - 2) s.pc with
          pc := i.vector, ifReg := s.ifReg &&& ~~~i.mask, ime := false, halted := false } =
        { State.write16In o { s with sp := s.sp - 2 } (s.sp - 2) s.pc with
          pc := i.vector, ifReg := s.ifReg &&& ~~~i.mask, ime := false, halted := false } := by
    intro o
    cases o <;> rfl
  exact either _

/-- Everything a check can do (60_exceptions.md R212). -/
theorem State.check_cases (s : State) :
    (serviceable s.ifReg s.ieReg = 0#8 ∧ s.check = (s, none)) ∨
    (serviceable s.ifReg s.ieReg ≠ 0#8 ∧ s.ime = false ∧ s.check = ({ s with halted := false }, none)) ∨
    (serviceable s.ifReg s.ieReg ≠ 0#8 ∧ s.ime = true ∧ ∃ i, leastSource (serviceable s.ifReg s.ieReg) = some i ∧
      s.check = (s.dispatch i, some i)) := by
  by_cases h : serviceable s.ifReg s.ieReg = 0#8
  · exact .inl ⟨h, if_pos h⟩
  · obtain ⟨i, hi⟩ := serviceable_leastSource h
    rw [State.check, if_neg h]
    cases ime : s.ime with
    | false => exact .inr (.inl ⟨h, rfl, rfl⟩)
    | true => exact .inr (.inr ⟨h, rfl, i, hi, by simp only [hi, if_true]; rw [s.dispatch_ignores true false i]⟩)

/-! ## The environment -/

/-- A batch of moves keeps everything but IF, IE, memory and the platform's history. -/
theorem State.envMoves_kept (ms : List EnvMove) (s : State) :
    ∃ i e m l, State.envMoves ms s = { s with ifReg := i, ieReg := e, mem := m, busLog := l } := by
  induction ms generalizing s with
  | nil => exact ⟨s.ifReg, s.ieReg, s.mem, s.busLog, rfl⟩
  | cons x ms ih =>
    obtain ⟨i, e, m, l, h⟩ := ih (s.envMove x)
    refine ⟨i, e, m, l, ?_⟩
    rw [State.envMoves, h]
    cases x <;> rfl

/-- A boundary keeps everything but IF, IE, memory, the platform's history and the pending moves. -/
theorem State.boundary_kept (s : State) :
    ∃ i e m l q, s.boundary = { s with ifReg := i, ieReg := e, mem := m, busLog := l, env := q } := by
  unfold State.boundary
  split
  · exact ⟨s.ifReg, s.ieReg, s.mem, s.busLog, s.env, rfl⟩
  · next batch rest _ =>
    obtain ⟨i, e, m, l, h⟩ := State.envMoves_kept batch { s with env := rest }
    exact ⟨i, e, m, l, rest, h⟩

/-- With no move pending a boundary does nothing. -/
theorem State.boundary_idle {s : State} (h : s.env = []) : s.boundary = s := by rw [State.boundary, h]

@[simp] theorem State.boundary_f (s : State) : s.boundary.f = s.f := by
  obtain ⟨_, _, _, _, _, h⟩ := s.boundary_kept
  rw [h]

@[simp] theorem State.boundary_fatal (s : State) : s.boundary.fatal = s.fatal := by
  obtain ⟨_, _, _, _, _, h⟩ := s.boundary_kept
  rw [h]

@[simp] theorem State.check_f (s : State) : s.check.1.f = s.f := by
  rcases s.check_cases with ⟨_, h⟩ | ⟨_, _, h⟩ | ⟨_, _, i, _, h⟩ <;> simp [h]

@[simp] theorem State.check_fatal (s : State) : s.check.1.fatal = s.fatal := by
  rcases s.check_cases with ⟨_, h⟩ | ⟨_, _, h⟩ | ⟨_, _, i, _, h⟩ <;> simp [h]

@[simp] theorem State.check_env (s : State) : s.check.1.env = s.env := by
  rcases s.check_cases with ⟨_, h⟩ | ⟨_, _, h⟩ | ⟨_, _, i, _, h⟩ <;> simp [h]

@[simp] theorem State.check_ieReg (s : State) : s.check.1.ieReg = s.ieReg := by
  rcases s.check_cases with ⟨_, h⟩ | ⟨_, _, h⟩ | ⟨_, _, i, _, h⟩ <;> simp [h]

/-- A check keeps the canonical form of memory. -/
theorem State.wf_check {s : State} (h : s.mem.wf = true) : s.check.1.mem.wf = true := by
  rcases s.check_cases with ⟨_, c⟩ | ⟨_, _, c⟩ | ⟨_, _, i, _, c⟩ <;> rw [c]
  · exact h
  · exact h
  · exact State.wf_dispatch h i

/-! ## The instructions -/

/-- No instruction's own effect touches IF, IE, the fatal status, the platform's extent or the environment's moves. -/
theorem exec_kept {i : Instr} {s t : State} (h : exec i s = .next t) :
    t.ifReg = s.ifReg ∧ t.ieReg = s.ieReg ∧ t.fatal = s.fatal ∧ t.platform = s.platform ∧ t.env = s.env := by
  cases i
  case halt =>
    simp only [exec, execHalt] at h
    split at h
    · cases h
    · cases h; exact ⟨rfl, rfl, rfl, rfl, rfl⟩
  case jpCond cc a =>
    simp only [exec, execJpCond] at h
    cases h
    split <;> exact ⟨rfl, rfl, rfl, rfl, rfl⟩
  all_goals
    cases h
    first
      | exact ⟨rfl, rfl, rfl, rfl, rfl⟩
      | simp [State.inc8, State.dec8]

end Sys2Proof.Machine
end

