-- ==== Sys2Proof/Laws/PerInstr.lean ====
section
/-! SUPPORT. Two facts about the instruction as syntax, one lemma per constructor: its descriptor is well-formed (`Shape`;
40_operands.md R102, R107), and its opcode byte is no prefix and has a row whose format has its length (`Length`;
30_encoding.md R71, R81). -/

namespace Sys2Proof.Laws

/-- The instruction's descriptor is well-formed. -/
def Shape.Statement (i : Instr) : Prop := i.wellFormed = true

/-- The opcode byte is not the prefix, and the row it selects has the length of the encoding. -/
def Length.Statement (i : Instr) : Prop :=
  i.opcode ≠ cbPrefixByte ∧ (lookup i.opcode false).map (fun row => row.format.length) = some i.length

namespace Shape

theorem nop : Statement .nop := rfl
theorem jpImm (a16 : Word) : Statement (.jpImm a16) := rfl
theorem jpCond (cc : Cond) (a16 : Word) : Statement (.jpCond cc a16) := by cases cc <;> rfl
theorem jpHL : Statement .jpHL := rfl
theorem di : Statement .di := rfl
theorem ei : Statement .ei := rfl
theorem halt : Statement .halt := rfl
theorem xorReg (r : Reg8) : Statement (.xorReg r) := by cases r <;> rfl
theorem xorIndHL : Statement .xorIndHL := rfl
theorem xorImm (d8 : Byte) : Statement (.xorImm d8) := rfl
theorem ldRegReg (dst src : Reg8) : Statement (.ldRegReg dst src) := by cases dst <;> cases src <;> rfl
theorem ldRegImm (dst : Reg8) (d8 : Byte) : Statement (.ldRegImm dst d8) := by cases dst <;> rfl
theorem ldRegIndHL (dst : Reg8) : Statement (.ldRegIndHL dst) := by cases dst <;> rfl
theorem ldIndHLReg (src : Reg8) : Statement (.ldIndHLReg src) := by cases src <;> rfl
theorem ldIndHLImm (d8 : Byte) : Statement (.ldIndHLImm d8) := rfl
theorem ldPairImm (rr : Reg16) (d16 : Word) : Statement (.ldPairImm rr d16) := by cases rr <;> rfl
theorem ldIndBCA : Statement .ldIndBCA := rfl
theorem ldIndDEA : Statement .ldIndDEA := rfl
theorem ldIndHLIncA : Statement .ldIndHLIncA := rfl
theorem ldIndHLDecA : Statement .ldIndHLDecA := rfl
theorem ldAIndBC : Statement .ldAIndBC := rfl
theorem ldAIndDE : Statement .ldAIndDE := rfl
theorem ldAIndHLInc : Statement .ldAIndHLInc := rfl
theorem ldAIndHLDec : Statement .ldAIndHLDec := rfl
theorem ldIndImmA (a16 : Word) : Statement (.ldIndImmA a16) := rfl
theorem ldAIndImm (a16 : Word) : Statement (.ldAIndImm a16) := rfl
theorem ldIndImmSP (a16 : Word) : Statement (.ldIndImmSP a16) := rfl
theorem ldSPHL : Statement .ldSPHL := rfl
theorem ldHLSPImm (r8 : Byte) : Statement (.ldHLSPImm r8) := rfl
theorem incReg (r : Reg8) : Statement (.incReg r) := by cases r <;> rfl
theorem decReg (r : Reg8) : Statement (.decReg r) := by cases r <;> rfl
theorem incPair (rr : Reg16) : Statement (.incPair rr) := by cases rr <;> rfl
theorem decPair (rr : Reg16) : Statement (.decPair rr) := by cases rr <;> rfl

end Shape

namespace Length

theorem nop : Statement .nop := ⟨ne_of_beq_false rfl, rfl⟩
theorem jpImm (a16 : Word) : Statement (.jpImm a16) := by
  rw [Statement, show (Instr.jpImm a16).opcode = (Instr.jpImm 0).opcode from rfl, show (Instr.jpImm a16).length = 3 from rfl]
  exact ⟨by decide, rfl⟩
theorem jpCond (cc : Cond) (a16 : Word) : Statement (.jpCond cc a16) := by
  rw [Statement, show (Instr.jpCond cc a16).opcode = (Instr.jpCond cc 0).opcode from rfl, show (Instr.jpCond cc a16).length = 3 from rfl]
  cases cc <;> exact ⟨by decide, rfl⟩
theorem jpHL : Statement .jpHL := ⟨ne_of_beq_false rfl, rfl⟩
theorem di : Statement .di := ⟨ne_of_beq_false rfl, rfl⟩
theorem ei : Statement .ei := ⟨ne_of_beq_false rfl, rfl⟩
theorem halt : Statement .halt := ⟨ne_of_beq_false rfl, rfl⟩
theorem xorReg (r : Reg8) : Statement (.xorReg r) := by cases r <;> exact ⟨ne_of_beq_false rfl, rfl⟩
theorem xorIndHL : Statement .xorIndHL := ⟨ne_of_beq_false rfl, rfl⟩
theorem xorImm (d8 : Byte) : Statement (.xorImm d8) := by
  rw [Statement, show (Instr.xorImm d8).opcode = (Instr.xorImm 0).opcode from rfl, show (Instr.xorImm d8).length = 2 from rfl]
  exact ⟨by decide, rfl⟩
theorem ldRegReg (dst src : Reg8) : Statement (.ldRegReg dst src) := by cases dst <;> cases src <;> exact ⟨ne_of_beq_false rfl, rfl⟩
theorem ldRegImm (dst : Reg8) (d8 : Byte) : Statement (.ldRegImm dst d8) := by
  rw [Statement, show (Instr.ldRegImm dst d8).opcode = (Instr.ldRegImm dst 0).opcode from rfl, show (Instr.ldRegImm dst d8).length = 2 from rfl]
  cases dst <;> exact ⟨by decide, rfl⟩
theorem ldRegIndHL (dst : Reg8) : Statement (.ldRegIndHL dst) := by cases dst <;> exact ⟨ne_of_beq_false rfl, rfl⟩
theorem ldIndHLReg (src : Reg8) : Statement (.ldIndHLReg src) := by cases src <;> exact ⟨ne_of_beq_false rfl, rfl⟩
theorem ldIndHLImm (d8 : Byte) : Statement (.ldIndHLImm d8) := by
  rw [Statement, show (Instr.ldIndHLImm d8).opcode = (Instr.ldIndHLImm 0).opcode from rfl, show (Instr.ldIndHLImm d8).length = 2 from rfl]
  exact ⟨by decide, rfl⟩
theorem ldPairImm (rr : Reg16) (d16 : Word) : Statement (.ldPairImm rr d16) := by
  rw [Statement, show (Instr.ldPairImm rr d16).opcode = (Instr.ldPairImm rr 0).opcode from rfl, show (Instr.ldPairImm rr d16).length = 3 from rfl]
  cases rr <;> exact ⟨by decide, rfl⟩
theorem ldIndBCA : Statement .ldIndBCA := ⟨ne_of_beq_false rfl, rfl⟩
theorem ldIndDEA : Statement .ldIndDEA := ⟨ne_of_beq_false rfl, rfl⟩
theorem ldIndHLIncA : Statement .ldIndHLIncA := ⟨ne_of_beq_false rfl, rfl⟩
theorem ldIndHLDecA : Statement .ldIndHLDecA := ⟨ne_of_beq_false rfl, rfl⟩
theorem ldAIndBC : Statement .ldAIndBC := ⟨ne_of_beq_false rfl, rfl⟩
theorem ldAIndDE : Statement .ldAIndDE := ⟨ne_of_beq_false rfl, rfl⟩
theorem ldAIndHLInc : Statement .ldAIndHLInc := ⟨ne_of_beq_false rfl, rfl⟩
theorem ldAIndHLDec : Statement .ldAIndHLDec := ⟨ne_of_beq_false rfl, rfl⟩
theorem ldIndImmA (a16 : Word) : Statement (.ldIndImmA a16) := by
  rw [Statement, show (Instr.ldIndImmA a16).opcode = (Instr.ldIndImmA 0).opcode from rfl, show (Instr.ldIndImmA a16).length = 3 from rfl]
  exact ⟨by decide, rfl⟩
theorem ldAIndImm (a16 : Word) : Statement (.ldAIndImm a16) := by
  rw [Statement, show (Instr.ldAIndImm a16).opcode = (Instr.ldAIndImm 0).opcode from rfl, show (Instr.ldAIndImm a16).length = 3 from rfl]
  exact ⟨by decide, rfl⟩
theorem ldIndImmSP (a16 : Word) : Statement (.ldIndImmSP a16) := by
  rw [Statement, show (Instr.ldIndImmSP a16).opcode = (Instr.ldIndImmSP 0).opcode from rfl, show (Instr.ldIndImmSP a16).length = 3 from rfl]
  exact ⟨by decide, rfl⟩
theorem ldSPHL : Statement .ldSPHL := ⟨ne_of_beq_false rfl, rfl⟩
theorem ldHLSPImm (r8 : Byte) : Statement (.ldHLSPImm r8) := by
  rw [Statement, show (Instr.ldHLSPImm r8).opcode = (Instr.ldHLSPImm 0).opcode from rfl, show (Instr.ldHLSPImm r8).length = 2 from rfl]
  exact ⟨by decide, rfl⟩
theorem incReg (r : Reg8) : Statement (.incReg r) := by cases r <;> exact ⟨ne_of_beq_false rfl, rfl⟩
theorem decReg (r : Reg8) : Statement (.decReg r) := by cases r <;> exact ⟨ne_of_beq_false rfl, rfl⟩
theorem incPair (rr : Reg16) : Statement (.incPair rr) := by cases rr <;> exact ⟨ne_of_beq_false rfl, rfl⟩
theorem decPair (rr : Reg16) : Statement (.decPair rr) := by cases rr <;> exact ⟨ne_of_beq_false rfl, rfl⟩

end Length

end Sys2Proof.Laws
end

