-- ==== Sys2Proof/Laws/Tick.lean ====
section
/-! SUPPORT. Fetch and decode in terms of the decoder, everything a step can do, and the induction along a run. -/

namespace Sys2Proof.Machine

/-- A 16-bit read does to the state what its two accesses do. -/
theorem State.replay_read16 (s : State) (o : Config.WordAccessOrder) (a : Word) :
    s.replay (read16Accesses o a) = s.afterRead16In o a := by cases o <;> rfl

/-- A 16-bit write does to the state what its two accesses do. -/
theorem State.replay_write16 (s : State) (o : Config.WordAccessOrder) (a v : Word) :
    s.replay (write16Accesses o a v) = s.write16In o a v := by cases o <;> rfl

/-- The CB region is empty (R78). -/
@[simp] theorem lookup_cb (b : Byte) : lookup b true = none := rfl

/-- The row of an opcode byte says how many bytes follow it (R81). -/
theorem bytesAfter_row {b : Byte} {row : Template} (np : b ≠ cbPrefixByte) (l : lookup b false = some row) :
    bytesAfter b = row.format.length - 1 := by
  rw [bytesAfter, if_neg np, l]

/-- Fetch of a second byte ends where `afterFetch` says. -/
theorem State.afterFetch_two {s : State} {b1 b2 : Byte} (b : s.bytesAtPC = [b1, b2])
    (acc : s.fetchAccesses .loFirst = [.read s.pc, .read (s.pc + 1)]) : s.fetch8.2.fetch8.2 = s.afterFetch := by
  rw [State.afterFetch, b, acc, show s.pc + BitVec.ofNat 16 [b1, b2].length = s.pc + 1 + 1 by simp [BitVec.add_assoc]]
  rfl

/-- Fetch of a 16-bit immediate ends where `afterFetch` says. -/
theorem State.afterFetch_three {s : State} {b1 b2 b3 : Byte} (b : s.bytesAtPC = [b1, b2, b3])
    (acc : s.fetchAccesses .loFirst =
      .read s.pc :: read16Accesses ((s.afterRead8 s.pc).wordOrder .loFirst (s.pc + 1)) (s.pc + 1)) :
    s.fetch8.2.fetch16.2 = s.afterFetch := by
  rw [State.afterFetch, b, acc, show s.pc + BitVec.ofNat 16 [b1, b2, b3].length = s.pc + 1 + 2 by simp [BitVec.add_assoc]]
  have either : ∀ o, (State.afterRead16In o ((s.afterRead8 s.pc).advancePC 1) (s.pc + 1)).advancePC 2 =
      { s with pc := s.pc + 1 + 2, busLog := (s.replay (.read s.pc :: read16Accesses o (s.pc + 1))).busLog } := by
    intro o
    cases o <;>
      simp [State.afterRead16In, read16Accesses, State.replay, State.advancePC, State.afterRead8, State.access, State.memAfter,
        State.logAfter, State.onPlatform, addrOf]
  exact either ((s.afterRead8 s.pc).wordOrder .loFirst (s.pc + 1))

/-- Fetch and decode at PC in terms of the decoder on the bytes taken there (30_encoding.md R77 to R79): the instruction or the
missing row is the decoder's, and either way the state is the one after fetching those bytes. -/
theorem State.fetchInstr_cases (s : State) :
    (∃ i, decode s.bytesAtPC = .ok i [] ∧ s.fetchInstr = .instr i s.afterFetch) ∨
      ∃ o cb, decode s.bytesAtPC = .reject (.noRow o cb) ∧ s.fetchInstr = .fatal (.decodeError o cb) s.afterFetch := by
  by_cases cb : s.read8 s.pc = cbPrefixByte
  · have n : bytesAfter (s.read8 s.pc) = 1 := if_pos cb
    have b : s.bytesAtPC = [s.read8 s.pc, (s.afterRead8 s.pc).read8 (s.pc + 1)] := by
      simp only [State.bytesAtPC, n]
    refine .inr ⟨_, true, by rw [b, decode, if_pos cb, decodePrefixed, lookup_cb], ?_⟩
    rw [State.fetchInstr, if_pos (show s.fetch8.1 = cbPrefixByte from cb), State.fetchPrefixed, lookup_cb,
      ← State.afterFetch_two b (by rw [State.fetchAccesses, if_pos cb])]
    rfl
  · have dec : decode s.bytesAtPC = decodeOpcode (s.read8 s.pc) s.bytesAtPC.tail := by
      rw [State.bytesAtPC, decode, if_neg cb]; rfl
    rw [State.fetchInstr, if_neg (show ¬ s.fetch8.1 = cbPrefixByte from cb), dec, decodeOpcode]
    cases l : lookup (s.read8 s.pc) false with
    | none =>
      have n : bytesAfter (s.read8 s.pc) = 0 := by rw [bytesAfter, if_neg cb, l]
      have b : s.bytesAtPC = [s.read8 s.pc] := by simp only [State.bytesAtPC, n]
      refine .inr ⟨_, false, rfl, ?_⟩
      rw [show lookup s.fetch8.1 false = none from l, State.afterFetch, b, State.fetchAccesses, if_neg cb, l]
      rfl
    | some row =>
      have n := bytesAfter_row cb l
      have acc : s.fetchAccesses .loFirst = .read s.pc ::
          immediateAccesses ((s.afterRead8 s.pc).wordOrder .loFirst (s.pc + 1)) (s.pc + 1) row.format := by
        rw [State.fetchAccesses, if_neg cb, l]
      rw [show lookup s.fetch8.1 false = some row from l]
      cases row with
      | op i =>
        have b : s.bytesAtPC = [s.read8 s.pc] := by simp only [State.bytesAtPC, n]; rfl
        refine .inl ⟨i, by rw [b]; rfl, ?_⟩
        rw [State.afterFetch, b, acc]
        rfl
      | d8 build =>
        have b : s.bytesAtPC = [s.read8 s.pc, (s.afterRead8 s.pc).read8 (s.pc + 1)] := by
          simp only [State.bytesAtPC, n]; rfl
        refine .inl ⟨build ((s.afterRead8 s.pc).read8 (s.pc + 1)), by rw [b]; rfl, ?_⟩
        rw [← State.afterFetch_two b acc]
        rfl
      | r8 build =>
        have b : s.bytesAtPC = [s.read8 s.pc, (s.afterRead8 s.pc).read8 (s.pc + 1)] := by
          simp only [State.bytesAtPC, n]; rfl
        refine .inl ⟨build ((s.afterRead8 s.pc).read8 (s.pc + 1)), by rw [b]; rfl, ?_⟩
        rw [← State.afterFetch_two b acc]
        rfl
      | d16 build =>
        have b : s.bytesAtPC = [s.read8 s.pc, lo ((s.afterRead8 s.pc).read16 (s.pc + 1)),
            hi ((s.afterRead8 s.pc).read16 (s.pc + 1))] := by
          simp only [State.bytesAtPC, n]; rfl
        refine .inl ⟨build ((s.afterRead8 s.pc).read16 (s.pc + 1)), ?_, ?_⟩
        · rw [b]
          simp only [List.tail_cons, Template.complete, pair_hi_lo]
        · rw [← State.afterFetch_three b acc]
          have either : ∀ o, State.read16In o ((s.afterRead8 s.pc).advancePC 1) (s.pc + 1) =
              State.read16In o (s.afterRead8 s.pc) (s.pc + 1) := by
            intro o
            cases o <;> rfl
          exact congrArg (Fetched.instr · _) (congrArg build (either _))

/-- Everything a step that answers a next state can be (60_exceptions.md R220): the check of a halted tick, an instruction and its
check, or a recorded fatal error without a check. -/
theorem step_cases {s t : State} (h : step s = .next t) :
    s.fatal = none ∧
    ((s.halted = true ∧ t = s.finishTick) ∨
     (s.halted = false ∧ ∃ i s2, s.fetchInstr = .instr i s.afterFetch ∧ exec i s.afterFetch = .next s2 ∧ t = s2.finishTick) ∨
     (s.halted = false ∧ ∃ o cb, s.fetchInstr = .fatal (.decodeError o cb) s.afterFetch ∧
        t = s.afterFetch.raiseFatal (.decodeError o cb))) := by
  rw [step, State.tick] at h
  cases alive : s.fatal with
  | some f => rw [alive] at h; cases h
  | none =>
    rw [alive] at h
    refine ⟨rfl, ?_⟩
    cases hal : s.halted with
    | true => rw [hal] at h; cases h; exact .inl ⟨rfl, rfl⟩
    | false =>
      rw [hal] at h
      refine .inr ?_
      rcases s.fetchInstr_cases with ⟨i, _, fetched⟩ | ⟨o, cb, _, fetched⟩
      · refine .inl ⟨rfl, i, ?_⟩
        simp only [State.instruction, fetched] at h
        cases run : exec i s.afterFetch with
        | next s2 =>
          have keptFatal : s2.fatal = none := by rw [(exec_kept run).2.2.1]; exact alive
          rw [run] at h
          simp [keptFatal] at h
          exact ⟨s2, fetched, rfl, h.symm⟩
        | fault f => rw [run] at h; simp at h
        | refused r => rw [run] at h; simp at h
      · refine .inr ⟨rfl, o, cb, fetched, ?_⟩
        simp only [State.instruction, fetched] at h
        simp at h
        exact h.symm

/-- What holds at the start of a run and is kept by every step holds all along it. -/
theorem Reaches.keeps {P : State → Prop} (kept : ∀ s t, P s → Sys2Proof.Machine.step s = .next t → P t) {s t : State} {n : Nat}
    (run : Reaches s n t) (start : P s) : P t := by
  induction run with
  | refl _ => exact start
  | step first _ ih => exact ih (kept _ _ start first)

end Sys2Proof.Machine
end

