-- ==== Sys2Proof/Machine/Asm.lean ====
section
/-! DEFINITION. The assembler spelling of an instruction (30_encoding.md R87), read off its descriptor, as a list of characters.
There are no pseudo-instructions (R88). Numbers are written as the rule's examples write them: data and addresses in hexadecimal at
their width, the signed byte of LD HL,SP+r8 in decimal with its sign. -/

namespace Sys2Proof

/-- One hexadecimal digit. -/
def hexDigit (n : Nat) : Char :=
  ['0', '1', '2', '3', '4', '5', '6', '7', '8', '9', 'A', 'B', 'C', 'D', 'E', 'F'].getD n '?'

/-- A byte as two hexadecimal digits. -/
def hexByte (v : Byte) : List Char := [hexDigit (v.toNat / 16), hexDigit (v.toNat % 16)]

/-- A number below 1000 in decimal, with no leading zero. -/
def decimal (n : Nat) : List Char :=
  (if n < 100 then [] else [hexDigit (n / 100)]) ++ (if n < 10 then [] else [hexDigit (n / 10 % 10)]) ++ [hexDigit (n % 10)]

/-- A signed byte with its sign. -/
def signedByte (v : Byte) : List Char :=
  if v.toNat < 128 then '+' :: decimal v.toNat else '-' :: decimal (256 - v.toNat)

/-- A register's name (R87). -/
def Reg8.asm : Reg8 → List Char
  | .b => ['B']
  | .c => ['C']
  | .d => ['D']
  | .e => ['E']
  | .h => ['H']
  | .l => ['L']
  | .a => ['A']

/-- A 16-bit register's name (R87). -/
def Reg16.asm : Reg16 → List Char
  | .bc => ['B', 'C']
  | .de => ['D', 'E']
  | .hl => ['H', 'L']
  | .sp => ['S', 'P']

/-- A condition's name (R87). -/
def Cond.asm : Cond → List Char
  | .nz => ['N', 'Z']
  | .z => ['Z']
  | .nc => ['N', 'C']
  | .c => ['C']

/-- A mnemonic as it is spelt (R87). -/
def Mnemonic.asm : Mnemonic → List Char
  | .nop => ['N', 'O', 'P']
  | .jp => ['J', 'P']
  | .di => ['D', 'I']
  | .ei => ['E', 'I']
  | .halt => ['H', 'A', 'L', 'T']
  | .xor => ['X', 'O', 'R']
  | .ld => ['L', 'D']
  | .inc => ['I', 'N', 'C']
  | .dec => ['D', 'E', 'C']

/-- A symbol's spelling. -/
def Sym.asm : Sym → List Char
  | .reg8 r => r.asm
  | .reg16 r => r.asm
  | .imm8 v => '0' :: 'x' :: hexByte v
  | .imm16 v => '0' :: 'x' :: (hexByte (hi v) ++ hexByte (lo v))
  | .cond cc => cc.asm
  | .addr16 v => '0' :: 'x' :: (hexByte (hi v) ++ hexByte (lo v))

/-- An operand: parentheses are its deref flag, a sign before the closing one its tag (R87). -/
def Operand.asm (o : Operand) : List Char :=
  let inner := o.sym.asm ++ (if o.inc then ['+'] else []) ++ (if o.dec then ['-'] else [])
  if o.deref then '(' :: (inner ++ [')']) else inner

/-- The operands, destination first, with commas between; the third operand of LD HL,SP+r8 is written onto the second. -/
def operandsAsm : List Operand → List Char
  | [] => []
  | [dst, base, { sym := .imm8 v, deref := false, inc := false, dec := false }] => dst.asm ++ [','] ++ base.asm ++ signedByte v
  | [o] => o.asm
  | o :: os => o.asm ++ [','] ++ operandsAsm os

/-- An instruction's line of assembler text (R87). -/
def Instr.asm (i : Instr) : List Char :=
  match i.operands with
  | [] => i.mnemonic.asm
  | os => i.mnemonic.asm ++ [' '] ++ operandsAsm os

end Sys2Proof
end

