-- ==== Sys2Proof/Tests/Slice0.lean ====
section
/-! SUPPORT. The model's own tests: ill-formed descriptors refused, words of the opcode table decoded, single ticks with the values
of 95_test_vectors.md (S and V numbers), and for every obligation with hypotheses a concrete state and operands that meet them. -/

namespace Sys2Proof.Tests

open Sys2Proof Sys2Proof.Machine

set_option maxRecDepth 8000

/-- The start state of 95_test_vectors.md: every register zero, PC at 0x0100, the given memory. -/
def start (mem : Memory) : State :=
  State.resetWith ⟨0, 0, 0, 0, 0, 0, 0, 0, 0, 0x0100, false, 0, 0⟩ mem []

/-- The state with the addresses from 0xFF00 on given to the platform. -/
def withIO (s : State) : State := { s with platform := [⟨0xFF00, 0xFFFF⟩] }

/-- The next state of a tick, if there is one. -/
def after (s : State) : Option State :=
  match step s with
  | .next t => some t
  | .fault _ => none
  | .refused _ => none

/-- The mnemonic the decoder gives a table word. -/
def mnemonicOf (w : Nat) : Option Mnemonic := (decodeTableWord 24 w).map Instr.mnemonic

/-- The length the decoder gives a table word. -/
def lengthOf (w : Nat) : Option Nat := (decodeTableWord 24 w).map Instr.length

/-! ## Ill-formed descriptors: one for each check of WellFormed -/

theorem test_illformed_four_operands :
    Descriptor.countOk ⟨.ld, [opReg8 .a, opReg8 .b, opReg8 .c, opReg8 .d], false, 4⟩ = false := by decide

theorem test_illformed_two_derefs :
    Descriptor.derefCountOk ⟨.ld, [opInd .hl, opInd .bc], false, 4⟩ = false ∧
      Descriptor.wellFormed ⟨.ld, [opInd .hl, opInd .bc], false, 4⟩ = false := by decide

theorem test_illformed_tag_not_on_hl :
    Operand.tagsOk { sym := .reg16 .bc, deref := true, inc := true } = false ∧
      Descriptor.wellFormed ⟨.ld, [{ sym := .reg16 .bc, deref := true, inc := true }, opReg8 .a], false, 4⟩ = false := by decide

theorem test_illformed_tag_without_deref : Operand.tagsOk { sym := .reg16 .hl, inc := true } = false := by decide

theorem test_illformed_both_tags :
    Operand.tagsOk { sym := .reg16 .hl, deref := true, inc := true, dec := true } = false := by decide

theorem test_illformed_deref_of_sp_or_byte :
    Operand.derefOk (opInd .sp) = false ∧ Operand.derefOk { sym := .reg8 .c, deref := true } = false ∧
      Descriptor.wellFormed ⟨.ld, [opInd .sp, opReg8 .a], false, 4⟩ = false := by decide

theorem test_illformed_condition_place :
    Descriptor.condOk ⟨.jp, [opCond .z], false, 4⟩ = false ∧ Descriptor.condOk ⟨.ld, [opReg8 .a, opCond .z], false, 4⟩ = false ∧
      Descriptor.condOk ⟨.jp, [opAddr 0x2000, opCond .z], false, 4⟩ = false := by decide

theorem test_illformed_shapes :
    shapeOk .nop [opReg8 .a] = false ∧ shapeOk .jp [opInd .hl] = false ∧ shapeOk .xor [opReg16 .hl] = false ∧
      shapeOk .ld [opReg8 .a] = false ∧ shapeOk .ld [opReg8 .a, opReg16 .hl] = false ∧ shapeOk .inc [opInd .hl] = false ∧
      shapeOk .dec [] = false ∧ shapeOk .ld [opReg16 .hl, opReg16 .bc, opImm8 1] = false := by decide

theorem test_illformed_prefixed : Descriptor.wellFormed ⟨.nop, [], true, 4⟩ = false := by decide

theorem test_wellformed_neighbours :
    Descriptor.wellFormed ⟨.nop, [], false, 4⟩ = true ∧ Descriptor.wellFormed ⟨.jp, [opCond .z, opAddr 0x2000], false, 4⟩ = true ∧
      Descriptor.wellFormed ⟨.ld, [opIndHLInc, opReg8 .a], false, 4⟩ = true := by decide

/-! ## Decode: the rows of spec/opcode_table.json by mnemonic and by length, and a word for every constructor -/

theorem test_rows_of_nop :
    (List.range 256).filter (fun b => mnemonicOf b == some .nop) =
      [0x00] := by decide

theorem test_rows_of_jp :
    (List.range 256).filter (fun b => mnemonicOf b == some .jp) =
      [0xC2, 0xC3, 0xCA, 0xD2, 0xDA, 0xE9] := by decide

theorem test_rows_of_di :
    (List.range 256).filter (fun b => mnemonicOf b == some .di) =
      [0xF3] := by decide

theorem test_rows_of_ei :
    (List.range 256).filter (fun b => mnemonicOf b == some .ei) =
      [0xFB] := by decide

theorem test_rows_of_halt :
    (List.range 256).filter (fun b => mnemonicOf b == some .halt) =
      [0x76] := by decide

theorem test_rows_of_xor :
    (List.range 256).filter (fun b => mnemonicOf b == some .xor) =
      [0xA8, 0xA9, 0xAA, 0xAB, 0xAC, 0xAD, 0xAE, 0xAF, 0xEE] := by decide

theorem test_rows_of_ld :
    (List.range 256).filter (fun b => mnemonicOf b == some .ld) =
      [0x01, 0x02, 0x06, 0x08, 0x0A, 0x0E, 0x11, 0x12, 0x16, 0x1A, 0x1E, 0x21, 0x22, 0x26, 0x2A, 0x2E, 0x31, 0x32,
        0x36, 0x3A, 0x3E, 0x40, 0x41, 0x42, 0x43, 0x44, 0x45, 0x46, 0x47, 0x48, 0x49, 0x4A, 0x4B, 0x4C, 0x4D, 0x4E,
        0x4F, 0x50, 0x51, 0x52, 0x53, 0x54, 0x55, 0x56, 0x57, 0x58, 0x59, 0x5A, 0x5B, 0x5C, 0x5D, 0x5E, 0x5F, 0x60,
        0x61, 0x62, 0x63, 0x64, 0x65, 0x66, 0x67, 0x68, 0x69, 0x6A, 0x6B, 0x6C, 0x6D, 0x6E, 0x6F, 0x70, 0x71, 0x72,
        0x73, 0x74, 0x75, 0x77, 0x78, 0x79, 0x7A, 0x7B, 0x7C, 0x7D, 0x7E, 0x7F, 0xEA, 0xF8, 0xF9, 0xFA] := by decide

theorem test_rows_of_inc :
    (List.range 256).filter (fun b => mnemonicOf b == some .inc) =
      [0x03, 0x04, 0x0C, 0x13, 0x14, 0x1C, 0x23, 0x24, 0x2C, 0x33, 0x3C] := by decide

theorem test_rows_of_dec :
    (List.range 256).filter (fun b => mnemonicOf b == some .dec) =
      [0x05, 0x0B, 0x0D, 0x15, 0x1B, 0x1D, 0x25, 0x2B, 0x2D, 0x3B, 0x3D] := by decide

theorem test_rows_of_length_2 :
    (List.range 256).filter (fun b => lengthOf b == some 2) =
      [0x06, 0x0E, 0x16, 0x1E, 0x26, 0x2E, 0x36, 0x3E, 0xEE, 0xF8] := by decide

theorem test_rows_of_length_3 :
    (List.range 256).filter (fun b => lengthOf b == some 3) =
      [0x01, 0x08, 0x11, 0x21, 0x31, 0xC2, 0xC3, 0xCA, 0xD2, 0xDA, 0xEA, 0xFA] := by decide

theorem test_row_count : ((List.range 256).filter (fun b => (decodeTableWord 24 b).isSome)).length = 129 := by decide

theorem test_words_control :
    decode [0x00] = .ok .nop [] ∧ decode [0xC3, 0x34, 0x12] = .ok (.jpImm 0x1234) [] ∧
      decode [0xC2, 0x00, 0x20] = .ok (.jpCond .nz 0x2000) [] ∧ decode [0xCA, 0x00, 0x20] = .ok (.jpCond .z 0x2000) [] ∧
      decode [0xD2, 0x00, 0x20] = .ok (.jpCond .nc 0x2000) [] ∧ decode [0xDA, 0x00, 0x20] = .ok (.jpCond .c 0x2000) [] ∧
      decode [0xE9] = .ok .jpHL [] ∧ decode [0xF3] = .ok .di [] ∧ decode [0xFB] = .ok .ei [] ∧ decode [0x76] = .ok .halt [] := by
  decide

theorem test_words_xor :
    decode [0xA8] = .ok (.xorReg .b) [] ∧ decode [0xAD] = .ok (.xorReg .l) [] ∧ decode [0xAF] = .ok (.xorReg .a) [] ∧
      decode [0xAE] = .ok .xorIndHL [] ∧ decode [0xEE, 0x3C] = .ok (.xorImm 0x3C) [] := by decide

theorem test_words_ld_bytes :
    decode [0x41] = .ok (.ldRegReg .b .c) [] ∧ decode [0x65] = .ok (.ldRegReg .h .l) [] ∧
      decode [0x7F] = .ok (.ldRegReg .a .a) [] ∧ decode [0x2E, 0x80] = .ok (.ldRegImm .l 0x80) [] ∧
      decode [0x3E, 0xFF] = .ok (.ldRegImm .a 0xFF) [] ∧ decode [0x6E] = .ok (.ldRegIndHL .l) [] ∧
      decode [0x7E] = .ok (.ldRegIndHL .a) [] ∧ decode [0x74] = .ok (.ldIndHLReg .h) [] ∧
      decode [0x77] = .ok (.ldIndHLReg .a) [] ∧ decode [0x36, 0x99] = .ok (.ldIndHLImm 0x99) [] := by decide

theorem test_words_ld_pointers :
    decode [0x02] = .ok .ldIndBCA [] ∧ decode [0x12] = .ok .ldIndDEA [] ∧ decode [0x22] = .ok .ldIndHLIncA [] ∧
      decode [0x32] = .ok .ldIndHLDecA [] ∧ decode [0x0A] = .ok .ldAIndBC [] ∧ decode [0x1A] = .ok .ldAIndDE [] ∧
      decode [0x2A] = .ok .ldAIndHLInc [] ∧ decode [0x3A] = .ok .ldAIndHLDec [] ∧
      decode [0xEA, 0x00, 0xC0] = .ok (.ldIndImmA 0xC000) [] ∧ decode [0xFA, 0x34, 0xC2] = .ok (.ldAIndImm 0xC234) [] := by decide

theorem test_words_ld_words :
    decode [0x01, 0x34, 0x12] = .ok (.ldPairImm .bc 0x1234) [] ∧ decode [0x11, 0xCD, 0xAB] = .ok (.ldPairImm .de 0xABCD) [] ∧
      decode [0x21, 0x00, 0xC0] = .ok (.ldPairImm .hl 0xC000) [] ∧ decode [0x31, 0xFE, 0xFF] = .ok (.ldPairImm .sp 0xFFFE) [] ∧
      decode [0x08, 0x00, 0xC1] = .ok (.ldIndImmSP 0xC100) [] ∧ decode [0xF9] = .ok .ldSPHL [] ∧
      decode [0xF8, 0x80] = .ok (.ldHLSPImm 0x80) [] := by decide

theorem test_words_inc_dec :
    decode [0x04] = .ok (.incReg .b) [] ∧ decode [0x3C] = .ok (.incReg .a) [] ∧ decode [0x25] = .ok (.decReg .h) [] ∧
      decode [0x3D] = .ok (.decReg .a) [] ∧ decode [0x13] = .ok (.incPair .de) [] ∧ decode [0x33] = .ok (.incPair .sp) [] ∧
      decode [0x0B] = .ok (.decPair .bc) [] ∧ decode [0x2B] = .ok (.decPair .hl) [] := by decide

theorem test_words_rejected :
    decode [0xD3, 0x11, 0x22] = .reject (.noRow 0xD3 false) ∧ decode [0x34] = .reject (.noRow 0x34 false) ∧
      decode [0xCB, 0x37] = .reject (.noRow 0x37 true) ∧ decode [0xCB, 0x00] = .reject (.noRow 0x00 true) ∧
      decode [0xC3, 0x00] = .reject .truncated := by decide

/-- R87's examples, and rows of the table without an immediate. -/
theorem test_assembler_text :
    (Instr.ldPairImm .bc 0x1234).asm = "LD BC,0x1234".toList ∧ (Instr.jpCond .nz 0x0107).asm = "JP NZ,0x0107".toList ∧
      (Instr.ldHLSPImm 0x01).asm = "LD HL,SP+1".toList ∧ (Instr.ldHLSPImm 0xFE).asm = "LD HL,SP-2".toList ∧
      (Instr.ldHLSPImm 0x80).asm = "LD HL,SP-128".toList ∧ (Instr.xorReg .c).asm = "XOR C".toList ∧
      Instr.ldIndHLIncA.asm = "LD (HL+),A".toList ∧ Instr.ldAIndHLDec.asm = "LD A,(HL-)".toList ∧
      (Instr.ldIndImmSP 0xC100).asm = "LD (0xC100),SP".toList ∧ Instr.halt.asm = "HALT".toList := by decide

/-! ## Single ticks, with the values of 95_test_vectors.md -/

/-- V2 -/
theorem test_nop_wraps_pc :
    after { start [] with pc := 0xFFFF } =
      some { start [] with pc := 0x0 } := by decide

/-- V4: the immediate straddles the top of memory -/
theorem test_jp_across_the_top :
    after { start [(0x0000, 0x80), (0xFFFE, 0xC3)] with pc := 0xFFFE } =
      some { start [(0x0000, 0x80), (0xFFFE, 0xC3)] with pc := 0x8000 } := by decide

/-- V10 -/
theorem test_jp_z_taken :
    after { start [(0x0100, 0xCA), (0x0102, 0x20)] with f := 0x80 } =
      some { start [(0x0100, 0xCA), (0x0102, 0x20)] with f := 0x80, pc := 0x2000 } := by decide

/-- V18 -/
theorem test_jp_c_not_taken :
    after { start [(0x0100, 0xDA), (0x0102, 0x20)] with f := 0x80 } =
      some { start [(0x0100, 0xDA), (0x0102, 0x20)] with f := 0x80, pc := 0x103 } := by decide

/-- V6: no memory read -/
theorem test_jp_hl :
    after { start [(0x0100, 0xE9)] with h := 0xBE, l := 0xEF } =
      some { start [(0x0100, 0xE9)] with h := 0xBE, l := 0xEF, pc := 0xBEEF } := by decide

/-- V21: no dispatch in the same tick -/
theorem test_di_before_check :
    after { start [(0x0100, 0xF3)] with ime := true, ifReg := 0x1, ieReg := 0x1, sp := 0xD000 } =
      some { start [(0x0100, 0xF3)] with ime := false, ifReg := 0x1, ieReg := 0x1, sp := 0xD000, pc := 0x101 } := by decide

/-- V23 -/
theorem test_ei_dispatches_at_once :
    after { start [(0x0100, 0xFB)] with ifReg := 0x10, ieReg := 0x10, sp := 0xD000 } =
      some { start [(0x0100, 0xFB), (0xCFFE, 0x01), (0xCFFF, 0x01)] with ifReg := 0x0, ieReg := 0x10, sp := 0xCFFE, pc := 0x60, ime := false } := by decide

/-- V26 -/
theorem test_halt_ignores_high_bits :
    after { start [(0x0100, 0x76)] with ifReg := 0xE0, ieReg := 0xFF } =
      some { start [(0x0100, 0x76)] with ifReg := 0xE0, ieReg := 0xFF, halted := true, pc := 0x101 } := by decide

/-- V27 -/
theorem test_halt_dispatches_at_once :
    after { start [(0x0100, 0x76)] with ime := true, ifReg := 0x2, ieReg := 0x2, sp := 0xD000 } =
      some { start [(0x0100, 0x76), (0xCFFE, 0x01), (0xCFFF, 0x01)] with ime := false, ifReg := 0x0, ieReg := 0x2, sp := 0xCFFE, pc := 0x48, halted := false } := by decide

/-- V33 -/
theorem test_xor_l :
    after { start [(0x0100, 0xAD)] with a := 0xAA, h := 0x12, l := 0x55 } =
      some { start [(0x0100, 0xAD)] with a := 0xFF, h := 0x12, l := 0x55, f := 0x0, pc := 0x101 } := by decide

/-- V30 -/
theorem test_xor_a :
    after { start [(0x0100, 0xAF)] with a := 0x5A, f := 0xF0 } =
      some { start [(0x0100, 0xAF)] with a := 0x0, f := 0x80, pc := 0x101 } := by decide

/-- V34 -/
theorem test_xor_ind_hl :
    after { start [(0x0100, 0xAE), (0xC000, 0xFF)] with a := 0xFF, h := 0xC0, l := 0x0, f := 0x70 } =
      some { start [(0x0100, 0xAE), (0xC000, 0xFF)] with a := 0x0, h := 0xC0, l := 0x0, f := 0x80, pc := 0x101 } := by decide

/-- V38 -/
theorem test_xor_imm :
    after { start [(0x0100, 0xEE), (0x0101, 0xFF)] with a := 0xF, f := 0x80 } =
      some { start [(0x0100, 0xEE), (0x0101, 0xFF)] with a := 0xF0, f := 0x0, pc := 0x102 } := by decide

/-- V42 -/
theorem test_ld_h_l :
    after { start [(0x0100, 0x65)] with h := 0x12, l := 0x34 } =
      some { start [(0x0100, 0x65)] with h := 0x34, l := 0x34, pc := 0x101 } := by decide

/-- V52 -/
theorem test_ld_l_imm :
    after { start [(0x0100, 0x2E), (0x0101, 0x80)] with h := 0x12, l := 0x34 } =
      some { start [(0x0100, 0x2E), (0x0101, 0x80)] with h := 0x12, l := 0x80, pc := 0x102 } := by decide

/-- V46: the address is taken before L is written -/
theorem test_ld_l_ind_hl :
    after { start [(0x0100, 0x6E), (0xC010, 0x77)] with h := 0xC0, l := 0x10 } =
      some { start [(0x0100, 0x6E), (0xC010, 0x77)] with h := 0xC0, l := 0x77, pc := 0x101 } := by decide

/-- V43 -/
theorem test_ld_ind_hl_h :
    after { start [(0x0100, 0x74)] with h := 0xC0, l := 0xDE } =
      some { start [(0x0100, 0x74), (0xC0DE, 0xC0)] with h := 0xC0, l := 0xDE, pc := 0x101 } := by decide

/-- V54: the store lands on the next opcode byte -/
theorem test_ld_ind_hl_imm :
    after { start [(0x0100, 0x36), (0x0101, 0x99)] with h := 0x1, l := 0x2 } =
      some { start [(0x0100, 0x36), (0x0101, 0x99), (0x0102, 0x99)] with h := 0x1, l := 0x2, pc := 0x102 } := by decide

/-- V60 -/
theorem test_ld_bc_imm :
    after (start [(0x0100, 0x01), (0x0101, 0x34), (0x0102, 0x12)]) =
      some { start [(0x0100, 0x01), (0x0101, 0x34), (0x0102, 0x12)] with b := 0x12, c := 0x34, pc := 0x103 } := by decide

/-- V63 -/
theorem test_ld_sp_imm :
    after (start [(0x0100, 0x31), (0x0101, 0xFE), (0x0102, 0xFF)]) =
      some { start [(0x0100, 0x31), (0x0101, 0xFE), (0x0102, 0xFF)] with sp := 0xFFFE, pc := 0x103 } := by decide

/-- V70 -/
theorem test_ld_ind_bc_a :
    after { start [(0x0100, 0x02)] with a := 0x5A, b := 0xC0, c := 0x1 } =
      some { start [(0x0100, 0x02), (0xC001, 0x5A)] with a := 0x5A, b := 0xC0, c := 0x1, pc := 0x101 } := by decide

/-- V71 -/
theorem test_ld_ind_de_a :
    after { start [(0x0100, 0x12)] with a := 0x5A, d := 0xC0, e := 0x2 } =
      some { start [(0x0100, 0x12), (0xC002, 0x5A)] with a := 0x5A, d := 0xC0, e := 0x2, pc := 0x101 } := by decide

/-- V72 -/
theorem test_ld_ind_hl_inc_a_carries :
    after { start [(0x0100, 0x22)] with a := 0x5A, h := 0xC0, l := 0xFF } =
      some { start [(0x0100, 0x22), (0xC0FF, 0x5A)] with a := 0x5A, h := 0xC1, l := 0x0, pc := 0x101 } := by decide

/-- V73 -/
theorem test_ld_ind_hl_inc_a_wraps :
    after { start [(0x0100, 0x22)] with a := 0x5A, h := 0xFF, l := 0xFF } =
      some { start [(0x0100, 0x22), (0xFFFF, 0x5A)] with a := 0x5A, h := 0x0, l := 0x0, pc := 0x101 } := by decide

/-- V75 -/
theorem test_ld_ind_hl_dec_a_wraps :
    after { start [(0x0100, 0x32)] with a := 0x5A, h := 0x0, l := 0x0 } =
      some { start [(0x0000, 0x5A), (0x0100, 0x32)] with a := 0x5A, h := 0xFF, l := 0xFF, pc := 0x101 } := by decide

/-- V76 -/
theorem test_ld_a_ind_bc :
    after { start [(0x0100, 0x0A), (0xC001, 0x77)] with b := 0xC0, c := 0x1 } =
      some { start [(0x0100, 0x0A), (0xC001, 0x77)] with b := 0xC0, c := 0x1, a := 0x77, pc := 0x101 } := by decide

/-- V77 -/
theorem test_ld_a_ind_de :
    after { start [(0x0100, 0x1A), (0xC002, 0x78)] with d := 0xC0, e := 0x2 } =
      some { start [(0x0100, 0x1A), (0xC002, 0x78)] with d := 0xC0, e := 0x2, a := 0x78, pc := 0x101 } := by decide

/-- V79 -/
theorem test_ld_a_ind_hl_inc_wraps :
    after { start [(0x0100, 0x2A), (0xFFFF, 0x7A)] with h := 0xFF, l := 0xFF } =
      some { start [(0x0100, 0x2A), (0xFFFF, 0x7A)] with h := 0x0, l := 0x0, a := 0x7A, pc := 0x101 } := by decide

/-- V80 -/
theorem test_ld_a_ind_hl_dec_borrows :
    after { start [(0x0100, 0x3A), (0xC100, 0x7B)] with h := 0xC1, l := 0x0 } =
      some { start [(0x0100, 0x3A), (0xC100, 0x7B)] with h := 0xC0, l := 0xFF, a := 0x7B, pc := 0x101 } := by decide

/-- V91: the store lands on the next opcode byte -/
theorem test_ld_ind_imm_a :
    after { start [(0x0100, 0xEA), (0x0101, 0x03), (0x0102, 0x01)] with a := 0x76 } =
      some { start [(0x0100, 0xEA), (0x0101, 0x03), (0x0102, 0x01), (0x0103, 0x76)] with a := 0x76, pc := 0x103 } := by decide

/-- V93: reads its own opcode byte -/
theorem test_ld_a_ind_imm :
    after (start [(0x0100, 0xFA), (0x0102, 0x01)]) =
      some { start [(0x0100, 0xFA), (0x0102, 0x01)] with a := 0xFA, pc := 0x103 } := by decide

/-- V94 -/
theorem test_ld_ind_imm_sp :
    after { start [(0x0100, 0x08), (0x0102, 0xC1)] with sp := 0xABCD } =
      some { start [(0x0100, 0x08), (0x0102, 0xC1), (0xC100, 0xCD), (0xC101, 0xAB)] with sp := 0xABCD, pc := 0x103 } := by decide

/-- V95 -/
theorem test_ld_ind_imm_sp_wraps :
    after { start [(0x0100, 0x08), (0x0101, 0xFF), (0x0102, 0xFF)] with sp := 0xABCD } =
      some { start [(0x0000, 0xAB), (0x0100, 0x08), (0x0101, 0xFF), (0x0102, 0xFF), (0xFFFF, 0xCD)] with sp := 0xABCD, pc := 0x103 } := by decide

/-- V96 -/
theorem test_ld_sp_hl :
    after { start [(0x0100, 0xF9)] with h := 0xD0, l := 0x0, sp := 0x1111, f := 0xF0 } =
      some { start [(0x0100, 0xF9)] with h := 0xD0, l := 0x0, sp := 0xD000, f := 0xF0, pc := 0x101 } := by decide

/-- V103: both carries by the unsigned byte -/
theorem test_ld_hl_sp_minus_one :
    after { start [(0x0100, 0xF8), (0x0101, 0xFF)] with sp := 0x1 } =
      some { start [(0x0100, 0xF8), (0x0101, 0xFF)] with sp := 0x1, h := 0x0, l := 0x0, f := 0x30, pc := 0x102 } := by decide

/-- V105: H and C keep their ones -/
theorem test_ld_hl_sp_is_sticky :
    after { start [(0x0100, 0xF8)] with sp := 0xD000, f := 0xF0 } =
      some { start [(0x0100, 0xF8)] with sp := 0xD000, f := 0x30, h := 0xD0, l := 0x0, pc := 0x102 } := by decide

/-- V121 -/
theorem test_inc_a_wraps :
    after { start [(0x0100, 0x3C)] with a := 0xFF, f := 0x40 } =
      some { start [(0x0100, 0x3C)] with a := 0x0, f := 0xA0, pc := 0x101 } := by decide

/-- V123 -/
theorem test_inc_l_keeps_h :
    after { start [(0x0100, 0x2C)] with h := 0x12, l := 0xFF } =
      some { start [(0x0100, 0x2C)] with h := 0x12, l := 0x0, f := 0xA0, pc := 0x101 } := by decide

/-- V125 -/
theorem test_dec_b_to_zero :
    after { start [(0x0100, 0x05)] with b := 0x1, f := 0x10 } =
      some { start [(0x0100, 0x05)] with b := 0x0, f := 0xD0, pc := 0x101 } := by decide

/-- V126 -/
theorem test_dec_c_wraps :
    after (start [(0x0100, 0x0D)]) =
      some { start [(0x0100, 0x0D)] with c := 0xFF, f := 0x60, pc := 0x101 } := by decide

/-- V130 -/
theorem test_inc_hl_wraps :
    after { start [(0x0100, 0x23)] with h := 0xFF, l := 0xFF, f := 0xF0 } =
      some { start [(0x0100, 0x23)] with h := 0x0, l := 0x0, f := 0xF0, pc := 0x101 } := by decide

/-- V131 -/
theorem test_inc_de_carries :
    after { start [(0x0100, 0x13)] with d := 0x0, e := 0xFF } =
      some { start [(0x0100, 0x13)] with d := 0x1, e := 0x0, pc := 0x101 } := by decide

/-- V134 -/
theorem test_dec_bc_wraps :
    after (start [(0x0100, 0x0B)]) =
      some { start [(0x0100, 0x0B)] with b := 0xFF, c := 0xFF, pc := 0x101 } := by decide

/-- V137 -/
theorem test_dec_sp_wraps :
    after (start [(0x0100, 0x3B)]) =
      some { start [(0x0100, 0x3B)] with sp := 0xFFFF, pc := 0x101 } := by decide

/-! ## Missing rows, the check, and the tick -/

/-- V151: the bytes after it are not fetched -/
theorem test_missing_row :
    after { start [(0x0100, 0xCD), (0x0102, 0x20)] with sp := 0xD000 } =
      some { start [(0x0100, 0xCD), (0x0102, 0x20)] with sp := 0xD000, fatal := some (.decodeError 0xCD false), pc := 0x101 } := by decide

/-- V156: no check after a fatal error -/
theorem test_missing_row_no_check :
    after { start [(0x0100, 0xFC)] with ime := true, ifReg := 0x1, ieReg := 0x1, sp := 0xD000 } =
      some { start [(0x0100, 0xFC)] with ime := true, ifReg := 0x1, ieReg := 0x1, sp := 0xD000, fatal := some (.decodeError 0xFC false), pc := 0x101 } := by decide

/-- V155: the second byte is fetched across the wrap -/
theorem test_missing_prefixed_row :
    after { start [(0xFFFF, 0xCB)] with pc := 0xFFFF } =
      some { start [(0xFFFF, 0xCB)] with pc := 0x1, fatal := some (.decodeError 0x00 true) } := by decide

/-- V180 -/
theorem test_halted_tick_fetches_nothing :
    after { start [(0x0300, 0x3C)] with halted := true, pc := 0x300, ieReg := 0x1 } =
      some { start [(0x0300, 0x3C)] with halted := true, pc := 0x300, ieReg := 0x1 } := by decide

/-- V181: the environment's request wakes the core, and the instruction runs on the next tick. -/
theorem test_wake_up_takes_a_tick :
    after { start [(0x0300, 0x3C)] with pc := 0x0300, halted := true, ieReg := 1, env := [[.request .vblank]] } =
        some { start [(0x0300, 0x3C)] with pc := 0x0300, ieReg := 1, ifReg := 1 } ∧
      after { start [(0x0300, 0x3C)] with pc := 0x0300, ieReg := 1, ifReg := 1 } =
        some { start [(0x0300, 0x3C)] with pc := 0x0301, a := 1, ieReg := 1, ifReg := 1 } := by decide

/-- V182, its second tick: the dispatch comes after the NOP in whose tick the request is found. -/
theorem test_dispatch_after_the_instruction :
    after { start [] with pc := 0x0101, sp := 0xD000, ime := true, ieReg := 1, env := [[.request .vblank]] } =
      some { start [(0xCFFE, 0x02), (0xCFFF, 0x01)] with pc := 0x0040, sp := 0xCFFE, ieReg := 1 } := by decide

/-- S6. -/
theorem test_check_timer :
    State.check { start [] with pc := 0x1234, sp := 0xD000, ime := true, ifReg := 4, ieReg := 5 } =
      ({ start [(0xCFFE, 0x34), (0xCFFF, 0x12)] with pc := 0x0050, sp := 0xCFFE, ieReg := 5 }, some .timer) := by decide

/-- V171: the push wraps. -/
theorem test_check_push_wraps :
    State.check { start [] with pc := 0x1234, sp := 0x0001, ime := true, ifReg := 1, ieReg := 1 } =
      ({ start [(0x0000, 0x12), (0xFFFF, 0x34)] with pc := 0x0040, sp := 0xFFFF, ieReg := 1 }, some .vblank) := by decide

/-- V165: bits 7 to 5 of IF are kept and do not count. -/
theorem test_check_keeps_high_bits :
    State.check { start [] with pc := 0x1234, sp := 0xD000, ime := true, ifReg := 0xF0, ieReg := 0xFF } =
      ({ start [(0xCFFE, 0x34), (0xCFFF, 0x12)] with pc := 0x0060, sp := 0xCFFE, ifReg := 0xE0, ieReg := 0xFF }, some .joypad) := by
  decide

/-- R51, R52: a store and a word store at platform addresses are seen there and change no byte of flat RAM. -/
theorem test_platform_stores :
    exec (.ldIndImmA 0xFF40) { withIO (start []) with a := 0x91 } =
        .next { withIO (start []) with a := 0x91, busLog := [.write 0xFF40 0x91] } ∧
      exec (.ldIndImmSP 0xFEFF) { withIO (start []) with sp := 0xABCD } =
        .next { withIO (start [(0xFEFF, 0xCD)]) with sp := 0xABCD, busLog := [.write 0xFF00 0xAB] } := ⟨rfl, rfl⟩

/-- R52: a load from a platform address is seen there, and what it answers is the platform's. -/
theorem test_platform_load :
    exec (.ldAIndImm 0xFF44) (withIO (start [])) =
      .next { withIO (start []) with a := Config.platformRead [] 0 0 0xFF44, busLog := [.read 0xFF44] } := rfl

/-- A word placed at PC by `withFetchWord` is what the next step runs: INC A from the reset value 0x01. -/
theorem test_with_fetch_word : (after (State.reset.withFetchWord 8 0x3C)).map (·.a) = some 0x02 := by decide

/-- LD A,0x5A placed as a two-byte word. -/
theorem test_with_fetch_word_immediate : (after (State.reset.withFetchWord 16 0x5A3E)).map (·.a) = some 0x5A := by decide

/-! ## Witnesses: for each obligation with hypotheses, a state and operands that meet them -/

theorem witness_DecodedBytesAreTheEncoding : decode [0xC3, 0xFF, 0xFF, 0x00] = .ok (.jpImm 0xFFFF) [0x00] := by decide

theorem witness_UnadmittedBytesAreRejected :
    (0xCA : Byte) ≠ 0xCB ∧ decode [0x07] = .reject (.noRow 0x07 false) ∧ decode [0xFF] = .reject (.noRow 0xFF false) ∧
      decode [0x80] = .reject (.noRow 0x80 false) ∧ decode [0xA7] = .reject (.noRow 0xA7 false) ∧
      decode [0xB0] = .reject (.noRow 0xB0 false) ∧ decode [0xA8] = .ok (.xorReg .b) [] := by decide

theorem witness_FirstByteFixesTheLength :
    decode [0x3E, 0x00] = .ok (.ldRegImm .a 0x00) [] ∧ decode [0x3E, 0xFF, 0x76] = .ok (.ldRegImm .a 0xFF) [0x76] := by decide

theorem witness_FlagOperationsTouchOneBit :
    (0 : Nat) < 8 ∧ Flag.z.mask.getLsbD 0 = false ∧ Flag.c.mask.getLsbD 7 = false ∧ Flag.n ≠ Flag.z := by decide

theorem witness_memory_wf : (start [(0x0000, 0x12), (0xFFFF, 0x34)]).mem.wf = true := by decide

theorem witness_WordAccessesAreTwoLittleEndianBytes :
    (start [(0x0000, 0x12), (0xFFFF, 0x34)]).read16 0xFFFF = 0x1234 ∧
      ((start []).write16In .hiFirst 0xFFFF 0xABCD).mem = [(0x0000, 0xAB), (0xFFFF, 0xCD)] := by decide

theorem witness_WordAccessesAreTwoLittleEndianBytes_hypotheses :
    (withIO (start [(0x0000, 0x12)])).mem.wf = true ∧ (withIO (start [])).onPlatform 0xFEFE = false ∧
      (withIO (start [])).onPlatform (0xFEFE + 1) = false ∧ (start []).onPlatform (0xFFFF + 1) = false := by decide

/-- The two clauses at the platform's first and last address and its neighbours. -/
theorem witness_ByteAccessesReachRamOrThePlatform :
    (withIO (start [])).onPlatform 0xFEFF = false ∧ (withIO (start [])).onPlatform 0x0000 = false ∧
      (withIO (start [])).onPlatform 0xFF00 = true ∧ (withIO (start [])).onPlatform 0xFFFF = true ∧
      (withIO (start [(0xFEFF, 0x01)])).mem.wf = true := by decide

/-- One byte of flat RAM and one of the platform, in both orders of address, and both the platform's. -/
theorem witness_WordAccessOrderCannotBeSeen :
    (start [(0xC000, 0x01)]).mem.wf = true ∧ (start [(0xC000, 0x01)]).write16In .loFirst 0xBFFF 0 = start [] ∧
      ((withIO (start [])).onPlatform 0xFEFF = false ∧ (withIO (start [])).onPlatform (0xFEFF + 1) = true) ∧
      ((withIO (start [])).onPlatform 0xFFFF = true ∧ (withIO (start [])).onPlatform (0xFFFF + 1) = false) ∧
      ((withIO (start [])).onPlatform 0xFF00 = true ∧ (withIO (start [])).onPlatform (0xFF00 + 1) = true) := by decide

/-- Code across the top of memory. -/
theorem witness_CodeInRamIsWhatMemoryHolds :
    ∃ s : State, s.onPlatform s.pc = false ∧ s.onPlatform (s.pc + 1) = false ∧ s.onPlatform (s.pc + 2) = false ∧
      s.bytesAtPC = [0xC3, 0x00, 0x80] :=
  ⟨{ start [(0x0000, 0x80), (0xFFFE, 0xC3)] with pc := 0xFFFE }, by decide⟩

theorem witness_FetchReadsAtPCAndAdvances :
    ∃ s : State, s.onPlatform s.pc = false ∧ s.onPlatform (s.pc + 1) = false ∧ s.fetch16.1 = 0x1234 :=
  ⟨{ start [(0x0000, 0x12), (0xFFFF, 0x34)] with pc := 0xFFFF }, by decide⟩

theorem witness_PushThenPop :
    (start []).mem.wf = true ∧ (State.push16 { start [] with sp := 1 } 0x1234).mem = [(0x0000, 0x12), (0xFFFF, 0x34)] ∧
      (start []).onPlatform (1 - 2) = false ∧ (start []).onPlatform (1 - 1) = false := by
  decide

/-- V73, V75: the wrap of HL, with the store at its old value. -/
theorem witness_TaggedStoresUseTheOldHL :
    (start [(0x0100, 0x22)]).mem.wf = true ∧ pair 0xFF 0xFF + 1 = 0x0000 ∧ pair 0x00 0x00 - 1 = 0xFFFF := by decide

/-- V95. -/
theorem witness_StoreOfSPWritesTwoBytes : (start [(0x0100, 0x08)]).mem.wf = true ∧ (0xFFFF : Word) + 1 = 0x0000 := by decide

theorem witness_NextFetchSeesTheStore :
    (start [(0x0100, 0x3C)]).mem.wf = true ∧ (start []).onPlatform 0x0100 = false ∧
      State.onPlatform { withIO (start []) with pc := 0xFF80 } 0xFF80 = true := by decide

theorem witness_JumpsSetOnlyPC :
    State.cond { start [] with f := 0x80 } .z = true ∧ (start []).cond .z = false ∧ State.cond { start [] with f := 0x10 } .c = true ∧
      State.cond { start [] with f := 0x10 } .nc = false ∧ (start []).cond .nz = true := by decide

/-- V25 for the second case, V27 for the first. -/
theorem witness_HaltSetsOnlyHalted :
    (State.ime { start [] with ime := true, ifReg := 2, ieReg := 2 } = true) ∧
      (State.ime { start [] with ifReg := 4, ieReg := 3 } = false ∧ (0x04 : Byte) &&& 0x03 &&& 0x1F = 0) := by decide

/-- V28: the tick is refused. -/
theorem witness_HaltBugIsRefused :
    step { start [(0x0100, 0x76)] with ifReg := 2, ieReg := 2 } = .refused .haltBug ∧ (0x02 : Byte) &&& 0x02 &&& 0x1F ≠ 0 :=
  ⟨rfl, by decide⟩

theorem witness_XorWritesAAndAllFlags :
    (∃ r, Instr.xorReg .c = .xorReg r ∧ (0x3C : Byte) = State.get8 { start [] with c := 0x3C } r) ∧
      (0xFF : Byte) = State.read8 { start [(0xC000, 0xFF)] with h := 0xC0 } (pair 0xC0 0x00) ∧ (0xF0 : Byte) &&& 0x0F = 0 :=
  ⟨⟨.c, rfl, rfl⟩, by decide⟩

theorem witness_ByteLoadsWriteTheirRegister :
    (∃ src, Instr.ldRegReg .h .l = .ldRegReg .h src ∧ (0x34 : Byte) = State.get8 { start [] with h := 0x12, l := 0x34 } src) ∧
      (0x77 : Byte) = State.read8 { start [(0xC010, 0x77)] with h := 0xC0, l := 0x10 } (pair 0xC0 0x10) ∧
      (0x77 : Byte) = State.read8 { start [(0xFFFF, 0x77)] with b := 0xFF, c := 0xFF } (pair 0xFF 0xFF) ∧
      (∃ a16, Instr.ldAIndImm 0x0100 = .ldAIndImm a16 ∧ (0xFA : Byte) = (start [(0x0100, 0xFA)]).read8 a16) :=
  ⟨⟨.l, rfl, rfl⟩, by decide, by decide, ⟨0x0100, rfl, by decide⟩⟩

theorem witness_ByteStoresWriteOneByte :
    (start []).mem.wf = true ∧
      (∃ src, Instr.ldIndHLReg .h = .ldIndHLReg src ∧ (0xC0DE : Word) = pair 0xC0 0xDE ∧
        (0xC0 : Byte) = State.get8 { start [] with h := 0xC0, l := 0xDE } src) ∧
      (Instr.ldIndBCA = .ldIndBCA ∧ (0xFFFF : Word) = pair 0xFF 0xFF) ∧ (Instr.ldIndImmA 0x0000 = .ldIndImmA 0x0000) :=
  ⟨by decide, ⟨.h, rfl, by decide, rfl⟩, ⟨rfl, by decide⟩, rfl⟩

theorem witness_EachRegisterHasItsWriters :
    ∃ t, exec (.ldIndImmSP 0xFFFF) { start [] with sp := 0xABCD } = .next t ∧ t.mem ≠ [] ∧
      Config.BusEvent.write 0xFFFF 0xCD ∈ State.dataAccesses .loFirst { start [] with sp := 0xABCD } (.ldIndImmSP 0xFFFF) :=
  ⟨_, rfl, by decide, by decide⟩

theorem witness_EachRegisterHasItsWriters_registers :
    (∃ t, exec (.jpImm 0x2000) (start []) = .next t ∧ t.pc ≠ (start []).pc) ∧
      (∃ t, exec (.decPair .sp) (start []) = .next t ∧ t.sp ≠ (start []).sp) ∧
      (∃ t, exec (.decReg .b) (start []) = .next t ∧ t.f ≠ (start []).f) ∧
      (∃ t, exec .ei (start []) = .next t ∧ t.ime ≠ (start []).ime) ∧
      (∃ t, exec .halt (start []) = .next t ∧ t.halted ≠ (start []).halted) :=
  ⟨⟨_, rfl, by decide⟩, ⟨_, rfl, by decide⟩, ⟨_, rfl, by decide⟩, ⟨_, rfl, by decide⟩, ⟨_, rfl, by decide⟩⟩

theorem witness_ShapeErrorExactlyOnWrongShape :
    Descriptor.wellFormed ⟨.jp, [opCond .nz, opReg16 .sp], false, 0⟩ = true ∧
      (start []).fatal = none ∧ shapeOk .inc [opInd .hl] = false ∧
      (∃ t, execDescriptor ⟨.jp, [opCond .nz, opReg16 .sp], false, 0⟩ (start []) = .next t ∧ t.pc = 0x0000) :=
  ⟨by decide, rfl, by decide, ⟨_, rfl, rfl⟩⟩

/-- The right shape, and a dereferenced Reg C, which is no address (log entry 21). -/
theorem witness_ShapeErrorExactlyOnWrongShape_address :
    shapeOk .ld [opReg8 .a, { sym := .reg8 .c, deref := true }] = true ∧
      (start []).address { sym := .reg8 .c, deref := true } = none ∧
      execDescriptor ⟨.ld, [opReg8 .a, { sym := .reg8 .c, deref := true }], false, 0⟩ (start []) =
        .next { start [] with fatal := some .operandShapeError } := ⟨by decide, by decide, rfl⟩

theorem witness_SelectPicksTheLeastSource :
    select 0x12 0xFF true = some ⟨.lcdStat, 0x10, false, 0x0048⟩ ∧ select 0x10 0x1F true = some ⟨.joypad, 0x00, false, 0x0060⟩ ∧
      select 0xE0 0xFF true = none ∧ select 0x01 0x01 false = none := by decide

/-- V166, with the memory of its push. -/
theorem witness_DispatchIsTheTrapEntry :
    (start []).mem.wf = true ∧
      (State.dispatch { start [] with pc := 0xABCD, sp := 0xD000, ifReg := 0x1F } .vblank).mem =
        [(0xCFFE, 0xCD), (0xCFFF, 0xAB)] := by decide

/-- S7: VBlank first, Timer next, nothing between. -/
theorem witness_OneSourcePerCheckLowestFirst :
    ∃ s : State, s.ime = true ∧ (s.ifReg &&& s.ieReg).getLsbD Source.vblank.bit = true ∧
      (∀ k ∈ [Source.vblank, .lcdStat, .timer, .serial, .joypad], ¬ k.bit < Source.vblank.bit) ∧
      Source.vblank.bit < Source.timer.bit ∧ (s.ifReg &&& s.ieReg).getLsbD Source.timer.bit = true ∧
      ∀ k ∈ [Source.vblank, .lcdStat, .timer, .serial, .joypad], Source.vblank.bit < k.bit → k.bit < Source.timer.bit →
        (s.ifReg &&& s.ieReg).getLsbD k.bit = false :=
  ⟨{ start [] with ime := true, ifReg := 5, ieReg := 5, pc := 0x1234, sp := 0xD000 }, by decide⟩

/-- The last two sources, with lower ones pending but not enabled. -/
theorem witness_OneSourcePerCheckLowestFirst_last :
    ((0x1F : Byte) &&& 0x18).getLsbD Source.serial.bit = true ∧ ((0x1F : Byte) &&& 0x18).getLsbD Source.joypad.bit = true ∧
      ∀ k ∈ [Source.vblank, .lcdStat, .timer, .serial, .joypad], k.bit < Source.serial.bit →
        ((0x1F : Byte) &&& 0x18).getLsbD k.bit = false := by decide

/-- V162 and V161. -/
theorem witness_WakeUpIgnoresIME :
    State.HasServiceable { start [] with ifReg := 4, ieReg := 4, halted := true } ∧
      ¬ State.HasServiceable { start [] with ifReg := 0x1D, ieReg := 2, halted := true } := by decide

theorem witness_OnlyDispatchClearsARequest :
    ∃ s t : State, s.env = [] ∧ step s = .next t ∧ s.ifReg = 0x30 ∧ t.ifReg = 0x20 ∧ t.pc = 0x0060 :=
  ⟨{ start [(0x0100, 0xFB)] with ifReg := 0x30, ieReg := 0x10, sp := 0xD000 }, _, rfl, rfl, rfl, by decide, by decide⟩

theorem witness_RequestsAreLatchedByTheEnvironmentAlone :
    (2 : Nat) ≠ Source.joypad.bit ∧ (∃ s : State, s.ifReg.getLsbD Source.joypad.bit = true) ∧
      ∃ s t : State, s.env = [] ∧ step s = .next t ∧ s.ifReg = 0x1F ∧ t.ifReg = 0x1E :=
  ⟨by decide, ⟨{ start [] with ifReg := 0x10 }, by decide⟩,
    ⟨{ start [] with ime := true, ifReg := 0x1F, ieReg := 0x1F }, _, rfl, rfl, rfl, by decide⟩⟩

/-- A bit that is dispatched, and one that stays. -/
theorem witness_RequestsAreLatchedByTheEnvironmentAlone_latch :
    ∃ s t : State, s.env = [] ∧ step s = .next t ∧ s.ifReg.getLsbD Source.serial.bit = true ∧
      t.ifReg.getLsbD Source.serial.bit = false ∧ t.ifReg.getLsbD Source.vblank.bit = true :=
  ⟨{ start [] with ime := true, ifReg := 0x19, ieReg := 0x18, sp := 0xD000 }, _, rfl, rfl, by decide, by decide, by decide⟩

/-- V23 and V21. -/
theorem witness_EiAndDiActInTheirOwnTick :
    (∃ s : State, s.fatal = none ∧ s.halted = false ∧ s.env = [] ∧ s.mem.wf = true ∧ decode s.bytesAtPC = .ok .ei [] ∧
      leastSource (s.ifReg &&& s.ieReg &&& 0x1F) = some .joypad) ∧
    (∃ s : State, s.fatal = none ∧ s.halted = false ∧ s.env = [] ∧ s.mem.wf = true ∧ decode s.bytesAtPC = .ok .di []) :=
  ⟨⟨{ start [(0x0100, 0xFB)] with ifReg := 0x10, ieReg := 0x10, sp := 0xD000 }, by decide⟩,
    ⟨{ start [(0x0100, 0xF3)] with ime := true, ifReg := 1, ieReg := 1, sp := 0xD000 }, by decide⟩⟩

/-- V4: the instruction lies across the top of memory. -/
theorem witness_StepRunsTheDecodedInstruction :
    ∃ s : State, s.fatal = none ∧ s.halted = false ∧ decode s.bytesAtPC = .ok (.jpImm 0x8000) [] :=
  ⟨{ start [(0x0000, 0x80), (0xFFFE, 0xC3)] with pc := 0xFFFE }, by decide⟩

/-- V150 and V154. -/
theorem witness_MissingRowRecordsDecodeError :
    (∃ s : State, s.fatal = none ∧ s.halted = false ∧ decode s.bytesAtPC = .reject (.noRow 0xD3 false)) ∧
    (∃ s : State, s.fatal = none ∧ s.halted = false ∧ decode s.bytesAtPC = .reject (.noRow 0x37 true)) :=
  ⟨⟨start [(0x0100, 0xD3), (0x0101, 0x11)], by decide⟩, ⟨start [(0x0100, 0xCB), (0x0101, 0x37)], by decide⟩⟩

/-- V157: no tick is possible. -/
theorem witness_FatalErrorIsTerminal :
    step { start [] with fatal := some (.decodeError 0xD3 false) } = .fault (.decodeError 0xD3 false) := rfl

theorem witness_OnlyDecodeErrorIsRaised :
    ∃ t, step (start [(0x0100, 0xD3)]) = .next t ∧ t.fatal = some (.decodeError 0xD3 false) := ⟨_, rfl, by decide⟩

theorem witness_StepsStopOnlyWhereTheSpecStops :
    decode [(start [(0x0100, 0x76)]).read8 0x0100] = .ok .halt [] ∧ decode [(start []).read8 0x0100] ≠ .ok .halt [] ∧
      (start []).fatal = none ∧ (start []).ifReg &&& (start []).ieReg &&& 0x1F = 0 := by decide

/-- V160 and V173: the wait, and the wake-up with a dispatch. -/
theorem witness_HaltedTickIsACheckAlone :
    (∃ s : State, s.fatal = none ∧ s.halted = true ∧ s.env = [] ∧ s.check.2 = none) ∧
    (∃ s : State, s.fatal = none ∧ s.halted = true ∧ s.env = [] ∧ s.check.1.halted = false) :=
  ⟨⟨{ start [] with halted := true, ime := true, ieReg := 0x1F }, by decide⟩,
    ⟨{ start [] with halted := true, ime := true, ifReg := 8, ieReg := 8, pc := 0x0203, sp := 0xC100 }, by decide⟩⟩

theorem witness_WaitingCoreStaysAsItIs : State.Waiting { start [] with halted := true, ieReg := 1 } := by decide

theorem witness_EveryStepKeepsTheInvariant :
    State.Inv { start [(0x0100, 0xF8), (0x0101, 0x01)] with sp := 0x00FF, f := 0xF0 } ∧
      ∃ t, step { start [(0x0100, 0xF8), (0x0101, 0x01)] with sp := 0x00FF, f := 0xF0 } = .next t ∧ t.f = 0x30 :=
  ⟨by decide, _, rfl, by decide⟩

/-- V95: the two writes of LD (0xFFFF),SP after the three reads of its fetch. -/
theorem witness_BusTraceAccountsForMemory :
    ∃ s t : State, s.env = [] ∧ s.mem.wf = true ∧ step s = .next t ∧
      s.tickAccesses .loFirst =
        [.read 0x0100, .read 0x0101, .read 0x0102, .write 0xFFFF 0xCD, .write 0x0000 0xAB] :=
  ⟨{ start [(0x0100, 0x08), (0x0101, 0xFF), (0x0102, 0xFF)] with sp := 0xABCD }, _, rfl, by decide, rfl, by decide⟩

theorem witness_NoInstructionReadsAndWritesData :
    (∃ t, exec .ldIndHLIncA { start [] with a := 0x5A, h := 0xC0 } = .next t) ∧
      ∀ v, Config.BusEvent.write 0xC001 v ∉ State.dataAccesses .loFirst { start [] with a := 0x5A, h := 0xC0 } .ldIndHLIncA :=
  ⟨⟨_, rfl⟩, fun v h => by
    have e := (Config.BusEvent.write.inj (List.mem_singleton.mp h)).1
    revert e
    decide⟩

theorem witness_ResetGivesEveryFieldItsValue :
    Config.dmgPostBoot.f &&& 0x0F = 0 ∧ Memory.wf [(0xFFFF, 0x01)] = true ∧ (start [(0xFFFF, 0x01)]).mem.wf = true := by decide

end Sys2Proof.Tests
end

section
/-! The flag register's operations bit by bit, and the conditions (10_state.md R19, R20). -/

namespace Sys2Proof.Machine

/-! ## The bits outside a flag's mask -/

/-- Setting is an OR with the mask, so a bit the mask lacks comes from F. -/
theorem setFlag_getLsbD_of_mask (fl : Flag) (f : Byte) (k : Nat) (out : fl.mask.getLsbD k = false) :
    (setFlag fl f).getLsbD k = f.getLsbD k := by
  rw [setFlag, BitVec.getLsbD_or, out, Bool.or_false]

/-- Clearing is an AND with the mask's complement, which is 1 at every bit of the byte the mask lacks. -/
theorem clearFlag_getLsbD_of_mask (fl : Flag) (f : Byte) (k : Nat) (lt : k < 8) (out : fl.mask.getLsbD k = false) :
    (clearFlag fl f).getLsbD k = f.getLsbD k := by
  have kept : (~~~fl.mask).getLsbD k = true := by rw [BitVec.getLsbD_not, out, decide_eq_true lt]; rfl
  rw [clearFlag, BitVec.getLsbD_and, kept, Bool.and_true]

/-! ## One equation per condition -/

@[simp] theorem State.cond_z (s : State) : s.cond .z = testFlag .z s.f := rfl
@[simp] theorem State.cond_nz (s : State) : s.cond .nz = !testFlag .z s.f := rfl
@[simp] theorem State.cond_c (s : State) : s.cond .c = testFlag .c s.f := rfl
@[simp] theorem State.cond_nc (s : State) : s.cond .nc = !testFlag .c s.f := rfl

/-! ## The obligations -/

/-- Settles O7, from what each operation does to the flag, to the bits outside its mask, to the other flags and to the low
nibble. -/
theorem flagOperationsTouchOneBit : Obligations.FlagOperationsTouchOneBit := by
  intro fl f
  refine ⟨testFlag_setFlag_same fl f, testFlag_clearFlag_same fl f, ?bits, ?flags, setFlag_low fl f, clearFlag_low fl f⟩
  case bits =>
    intro k lt out
    exact ⟨setFlag_getLsbD_of_mask fl f k out, clearFlag_getLsbD_of_mask fl f k lt out⟩
  case flags =>
    intro g ne
    exact ⟨testFlag_setFlag_ne fl g f ne, testFlag_clearFlag_ne fl g f ne⟩

/-- Settles O8: Z and C are their flag's test, NZ and NC its negation. -/
theorem conditionsReadTheirFlag : Obligations.ConditionsReadTheirFlag := by
  intro s
  refine ⟨?z, ?nz, ?c, ?nc⟩
  case z => rw [State.cond_z]
  case nz => rw [State.cond_nz, Bool.not_eq_true']
  case c => rw [State.cond_c]
  case nc => rw [State.cond_nc, Bool.not_eq_true']

end Sys2Proof.Machine
end

section
/-! The bus a word at a time: what a 16-bit write puts where, what flat RAM gives back, and what that makes of fetch and the
stack (20_memory.md R42, R43, R46, R48, R63). -/

namespace Sys2Proof.Machine

/-! ## A 16-bit write, in either order of its bytes -/

/-- The low byte stands at the address, whether it was written first or last. -/
theorem State.read8_write16In_lo {s : State} {a : Word} (h : s.mem.wf = true) (ram : s.onPlatform a = false)
    (o : Config.WordAccessOrder) (v : Word) : (s.write16In o a v).read8 a = lo v := by
  cases o with
  | loFirst =>
    have kept := State.read8_write8_ne (s := s.write8 a (lo v)) (b := a) (by simpa using ram) (a + 1) (hi v) (by simp)
    exact kept.trans (State.read8_write8_same h ram (lo v))
  | hiFirst => exact State.read8_write8_same (State.wf_write8 h (a + 1) (hi v)) (by simpa using ram) (lo v)

/-- The high byte stands at the next address, whether it was written first or last. -/
theorem State.read8_write16In_hi {s : State} {a : Word} (h : s.mem.wf = true) (ram : s.onPlatform (a + 1) = false)
    (o : Config.WordAccessOrder) (v : Word) : (s.write16In o a v).read8 (a + 1) = hi v := by
  cases o with
  | loFirst => exact State.read8_write8_same (State.wf_write8 h a (lo v)) (by simpa using ram) (hi v)
  | hiFirst =>
    have kept := State.read8_write8_ne (s := s.write8 (a + 1) (hi v)) (b := a + 1) (by simpa using ram) a (lo v) (by simp)
    exact kept.trans (State.read8_write8_same h ram (hi v))

/-- Two byte writes leave alone what each of them leaves alone. -/
theorem State.keepsMemory_write16In (s : State) (o : Config.WordAccessOrder) (a v : Word) :
    KeepsMemory [a, a + 1] s (s.write16In o a v) := by
  have twoWrites : ∀ (b c x : Word) (v w : Byte), s.onPlatform x = false → x ≠ b → x ≠ c →
      ((s.write8 b v).write8 c w).read8 x = s.read8 x := by
    intro b c x v w ram nb nc
    rw [State.read8_write8_ne (by simpa using ram) c w nc, State.read8_write8_ne ram b v nb]
  intro x out ram
  obtain ⟨first, second⟩ : x ≠ a ∧ x ≠ a + 1 := by simpa using out
  cases o with
  | loFirst => exact twoWrites a (a + 1) x (lo v) (hi v) ram first second
  | hiFirst => exact twoWrites (a + 1) a x (hi v) (lo v) ram second first

/-! ## A 16-bit write in the order the state gives -/

theorem State.stored_write16_lo {s : State} (h : s.mem.wf = true) (a v : Word) : Stored a (lo v) s (s.write16 a v) :=
  fun ram => State.read8_write16In_lo h ram _ v

theorem State.stored_write16_hi {s : State} (h : s.mem.wf = true) (a v : Word) : Stored (a + 1) (hi v) s (s.write16 a v) :=
  fun ram => State.read8_write16In_hi h ram _ v

theorem State.keepsMemory_write16 (s : State) (a v : Word) : KeepsMemory [a, a + 1] s (s.write16 a v) :=
  State.keepsMemory_write16In s _ a v

theorem State.busSaw_write16 (s : State) (a v : Word) :
    BusSaw (write16Accesses (s.wordOrder .loFirst a) a v) s (s.write16 a v) := by
  rw [BusSaw, State.replay_write16, State.write16]

/-! ## Reads -/

theorem State.read8_platform {s : State} {a : Word} (plat : s.onPlatform a = true) :
    s.read8 a = Config.platformRead s.busLog s.ifReg s.ieReg a := if_pos plat

/-- The platform has the write in its history when it answers a read of the same address. -/
theorem State.read8_write8_platform {s : State} {a : Word} (plat : s.onPlatform a = true) (v : Byte) :
    (s.write8 a v).read8 a = Config.platformRead (.write a v :: s.busLog) s.ifReg s.ieReg a := by
  have seen : (s.write8 a v).busLog = .write a v :: s.busLog := State.logAfter_platform (x := .write a v) plat
  rw [State.read8_platform (by simpa using plat), seen, State.write8_ifReg, State.write8_ieReg]

/-- A word of flat RAM is its two bytes, the low one at the address. -/
theorem State.read16_ram {s : State} {a : Word} (first : s.onPlatform a = false) (second : s.onPlatform (a + 1) = false) :
    s.read16 a = pair (s.read8 (a + 1)) (s.read8 a) := by
  rw [State.read16, State.wordOrder_ram .loFirst (.inl first), State.read16In, State.read8_afterRead8 second]

/-- A 16-bit read of flat RAM changes nothing. -/
theorem State.afterRead16_ram {s : State} {a : Word} (first : s.onPlatform a = false)
    (second : s.onPlatform (a + 1) = false) : s.afterRead16 a = s := by
  rw [State.afterRead16, State.wordOrder_ram .loFirst (.inl first), State.afterRead16In, State.afterRead8_ram first,
    State.afterRead8_ram second]

/-! ## Fetch -/

theorem State.fetch8_eq (s : State) : s.fetch8 = (s.read8 s.pc, { s.afterRead8 s.pc with pc := s.pc + 1 }) := rfl

theorem State.fetch16_eq (s : State) : s.fetch16 = (s.read16 s.pc, { s.afterRead16 s.pc with pc := s.pc + 2 }) := by
  rw [State.fetch16, State.advancePC, State.afterRead16_pc]

/-! ## The stack -/

/-- A push is a 16-bit write at SP - 2 that leaves SP there: the write itself reads no register. -/
theorem State.push16_eq (s : State) (v : Word) : s.push16 v = { s.write16 (s.sp - 2) v with sp := s.sp - 2 } := by
  have either : ∀ o, State.write16In o { s with sp := s.sp - 2 } (s.sp - 2) v =
      { s.write16In o (s.sp - 2) v with sp := s.sp - 2 } := by
    intro o
    cases o <;> rfl
  exact either _

@[simp] theorem State.push16_busLog (s : State) (v : Word) : (s.push16 v).busLog = (s.write16 (s.sp - 2) v).busLog := by
  rw [State.push16_eq]

@[simp] theorem State.read8_push16 (s : State) (v a : Word) : (s.push16 v).read8 a = (s.write16 (s.sp - 2) v).read8 a := by
  rw [State.push16_eq]
  rfl

@[simp] theorem State.get8_push16 (s : State) (v : Word) (r : Reg8) : (s.push16 v).get8 r = s.get8 r := by
  cases r <;> simp [State.get8]

theorem State.stored_push16_lo {s : State} (h : s.mem.wf = true) (v : Word) : Stored (s.sp - 2) (lo v) s (s.push16 v) := by
  rw [Stored, State.read8_push16]
  exact State.stored_write16_lo h (s.sp - 2) v

/-- The address after SP - 2, also where SP is below 2. -/
theorem sub_two_add_one (w : Word) : w - 2 + 1 = w - 1 := by bv_omega

theorem State.stored_push16_hi {s : State} (h : s.mem.wf = true) (v : Word) : Stored (s.sp - 1) (hi v) s (s.push16 v) := by
  rw [Stored, State.read8_push16, ← sub_two_add_one]
  exact State.stored_write16_hi h (s.sp - 2) v

theorem State.keepsMemory_push16 (s : State) (v : Word) : KeepsMemory [s.sp - 2, s.sp - 1] s (s.push16 v) := by
  intro a out ram
  rw [← sub_two_add_one] at out
  rw [State.read8_push16, State.keepsMemory_write16 s (s.sp - 2) v a out ram]

theorem State.busSaw_push16 (s : State) (v : Word) :
    BusSaw (write16Accesses (s.wordOrder .loFirst (s.sp - 2)) (s.sp - 2) v) s (s.push16 v) := by
  rw [BusSaw, State.push16_busLog]
  exact State.busSaw_write16 s (s.sp - 2) v

theorem State.keepsSystem_push16 (s : State) (v : Word) : KeepsSystem s (s.push16 v) :=
  ⟨s.push16_ime v, s.push16_ifReg v, s.push16_ieReg v, s.push16_halted v, s.push16_fatal v, s.push16_platform v,
    s.push16_env v⟩

/-- A pop undoes the move of SP whatever stands behind the two addresses. -/
theorem State.pop16_push16_sp (s : State) (v : Word) : (s.push16 v).pop16.2.sp = s.sp := by
  rw [State.pop16, State.push16_sp, BitVec.sub_add_cancel]

/-- From flat RAM a pop takes both bytes of the push back. -/
theorem State.pop16_push16 {s : State} (h : s.mem.wf = true) (v : Word) (first : s.onPlatform (s.sp - 2) = false)
    (second : s.onPlatform (s.sp - 1) = false) : (s.push16 v).pop16.1 = v := by
  have low : (s.push16 v).read8 (s.sp - 2) = lo v := State.stored_push16_lo h v first
  have high : (s.push16 v).read8 (s.sp - 1) = hi v := State.stored_push16_hi h v second
  rw [State.pop16, State.push16_sp, State.read16_ram (by rwa [State.push16_onPlatform])
    (by rwa [State.push16_onPlatform, sub_two_add_one]), sub_two_add_one, low, high, pair_hi_lo]

/-! ## The obligations -/

/-- Settles O15: a push is a 16-bit write at SP - 2 and a pop a 16-bit read at the SP it leaves. -/
theorem pushThenPop : Obligations.PushThenPop := by
  intro s v h
  exact ⟨s.push16_sp v, State.stored_push16_lo h v, State.stored_push16_hi h v, s.keepsMemory_push16 v, s.busSaw_push16 v,
    fun r _ => s.get8_push16 v r, s.push16_f v, s.push16_pc v, s.keepsSystem_push16 v, rfl, s.pop16_push16_sp v,
    State.pop16_push16 h v⟩

/-- What LD (a16),A does (44_ld.md R165). -/
theorem exec_ldIndImmA (a16 : Word) (s : State) : exec (.ldIndImmA a16) s = .next (s.write8 a16 s.a) := rfl

/-- Settles O16: the store leaves PC, so the fetch reads the byte just written, in RAM or behind the platform. -/
theorem nextFetchSeesTheStore : Obligations.NextFetchSeesTheStore := by
  intro s h
  have fetched : (s.write8 s.pc s.a).fetch8.1 = (s.write8 s.pc s.a).read8 s.pc := by rw [State.fetch8_eq, State.write8_pc]
  refine ⟨s.write8 s.pc s.a, exec_ldIndImmA s.pc s, s.write8_pc s.pc s.a, ?ram, ?platform⟩
  case ram =>
    intro ram
    rw [fetched, State.read8_write8_same h ram]
  case platform =>
    intro plat
    rw [fetched, State.read8_write8_platform plat]

/-- Settles O13: a read changes the platform's history alone, and on flat RAM not even that. -/
theorem fetchReadsAtPCAndAdvances : Obligations.FetchReadsAtPCAndAdvances := by
  intro s
  refine ⟨s.fetch8_eq, s.fetch16_eq, ?byte, ?word, ?ram⟩
  case byte => rw [State.afterRead8_eq]
  case word => rw [State.afterRead16_eq]
  case ram =>
    intro first second
    rw [State.fetch8_eq, State.fetch16_eq, State.afterRead8_ram first, State.afterRead16_ram first second,
      State.read16_ram first second]
    exact ⟨rfl, rfl, lo_pair _ _, hi_pair _ _⟩

end Sys2Proof.Machine
end

section
/-! NOP and the jumps: what each leaves of the state (41_nop_jp.md R120 to R123). -/

namespace Sys2Proof.Machine

/-! ## One equation per instruction -/

theorem exec_nop (s : State) : exec .nop s = .next s := rfl

theorem exec_jpImm (a16 : Word) (s : State) : exec (.jpImm a16) s = .next (s.jump a16) := rfl

theorem exec_jpHL (s : State) : exec .jpHL s = .next (s.jump s.hl) := rfl

theorem exec_jpCond_of_cond {cc : Cond} {s : State} (holds : s.cond cc = true) (a16 : Word) :
    exec (.jpCond cc a16) s = .next (s.jump a16) :=
  congrArg Host.Outcome.next (if_pos holds)

theorem exec_jpCond_of_not_cond {cc : Cond} {s : State} (fails : s.cond cc = false) (a16 : Word) :
    exec (.jpCond cc a16) s = .next s :=
  congrArg Host.Outcome.next (if_neg (Bool.eq_false_iff.mp fails))

/-! ## The obligations -/

/-- Settles O17: NOP's arm answers the state it is given. -/
theorem nopChangesNothing : Obligations.NopChangesNothing := exec_nop

/-- Settles O18: each form is a jump, which writes PC alone, or, where its condition fails, no change. -/
theorem jumpsSetOnlyPC : Obligations.JumpsSetOnlyPC := by
  intro s a16 cc
  exact ⟨exec_jpImm a16 s, fun holds => exec_jpCond_of_cond holds a16, fun fails => exec_jpCond_of_not_cond fails a16,
    exec_jpHL s⟩

end Sys2Proof.Machine
end

section
/-! DI and EI: the instructions themselves, and their tick with the check that ends it (42_di_ei_halt.md R130, R131;
70_reset_and_hazards.md R245). -/

namespace Sys2Proof

/-! ## Rows without an immediate -/

/-- What a row makes of fetched bytes has exactly those bytes as its immediates. -/
def Template.KeepsImmediate : Template → Prop
  | .op i => i.immediates = []
  | .d8 build | .r8 build => ∀ v, (build v).immediates = [v]
  | .d16 build => ∀ w, (build w).immediates = [lo w, hi w]

/-- The opcode map read row by row. -/
theorem opcodeMap_keepsImmediate : ∀ line ∈ opcodeMap, ∀ cell ∈ line, ∀ row ∈ cell, row.KeepsImmediate := by
  simp only [opcodeMap, mapRow0, mapRow1, mapRow2, mapRow3, mapRow4, mapRow5, mapRow6, mapRow7, mapRowNone, mapRowA, mapRowC,
    mapRowD, mapRowE, mapRowF, List.forall_mem_cons, Option.mem_def, Option.some.injEq, forall_eq', Template.KeepsImmediate,
    Instr.immediates]
  simp

theorem lookup_keepsImmediate {b : Byte} {row : Template} (l : lookup b false = some row) : row.KeepsImmediate := by
  rw [lookup, if_neg Bool.false_ne_true, Option.join_eq_some_iff] at l
  cases line : opcodeMap[b.toNat / 16]? with
  | none => simp [line] at l
  | some cells =>
    rw [line] at l
    exact opcodeMap_keepsImmediate cells (List.mem_of_getElem? line) (some row) (List.mem_of_getElem? l) row rfl

/-- A row that completes to an instruction without immediates is that instruction. -/
theorem Template.eq_op_of_complete {row : Template} (keeps : row.KeepsImmediate) {bs rest : List Byte} {i : Instr}
    (done : row.complete bs = .ok i rest) (plain : i.immediates = []) : row = .op i := by
  cases row with
  | op j => cases done; rfl
  | d8 build | r8 build =>
    match bs, done with
    | v :: _, done => cases done; simp [keeps v] at plain
  | d16 build =>
    match bs, done with
    | l :: h :: _, done => cases done; simp [keeps (pair h l)] at plain

/-- The first byte of an instruction without immediates is not 0xCB, and its row is the instruction (30_encoding.md R77, R78). -/
theorem lookup_of_decode {b : Byte} {bs rest : List Byte} {i : Instr} (dec : decode (b :: bs) = .ok i rest)
    (plain : i.immediates = []) : b ≠ cbPrefixByte ∧ lookup b false = some (.op i) := by
  by_cases prefixed : b = cbPrefixByte
  · rw [decode, if_pos prefixed] at dec
    cases bs <;> cases dec
  · rw [decode, if_neg prefixed, decodeOpcode] at dec
    cases l : lookup b false with
    | none => rw [l] at dec; cases dec
    | some row =>
      rw [l] at dec
      exact ⟨prefixed, congrArg some (Template.eq_op_of_complete (lookup_keepsImmediate l) dec plain)⟩

end Sys2Proof

namespace Sys2Proof.Machine

/-! ## The tick of an instruction without immediates -/

/-- Fetch of an instruction without immediates is one `Fetch8`. -/
theorem State.fetchInstr_of_plain {s : State} {i : Instr} {rest : List Byte} (dec : decode s.bytesAtPC = .ok i rest)
    (plain : i.immediates = []) : s.fetchInstr = .instr i { s.afterRead8 s.pc with pc := s.pc + 1 } := by
  obtain ⟨noPrefix, row⟩ := lookup_of_decode dec plain
  rw [State.fetchInstr, State.fetch8_eq, if_neg noPrefix, row]
  rfl

/-- An instruction that answers a next state is followed by the check and the boundaries around it (60_exceptions.md R220). -/
theorem step_of_fetchInstr {s s1 t : State} {i : Instr} (alive : s.fatal = none) (awake : s.halted = false)
    (fetched : s.fetchInstr = .instr i s1) (run : exec i s1 = .next t) (fine : t.fatal = none) :
    step s = .next t.finishTick := by
  rw [step, State.tick, alive, awake, State.instruction, fetched]
  simp [run, fine]

/-- With no move pending the rest of a tick is the check. -/
theorem State.finishTick_idle {s : State} (idle : s.env = []) : s.finishTick = s.check.1 := by
  rw [State.finishTick, State.boundary_idle idle, State.boundary_idle (by rw [State.check_env, idle])]

/-! ## The check, by IME -/

/-- With IME false a check of a core that is not halted does nothing. -/
theorem State.check_of_not_ime {s : State} (masked : s.ime = false) (awake : s.halted = false) : s.check.1 = s := by
  rcases s.check_cases with ⟨_, c⟩ | ⟨_, _, c⟩ | ⟨_, enabled, _⟩
  · rw [c]
  · rw [c, ← awake]
  · rw [masked] at enabled; cases enabled

/-- With IME true a check dispatches the least serviceable source. -/
theorem State.check_of_ime {s : State} {i : Source} (enabled : s.ime = true)
    (least : leastSource (serviceable s.ifReg s.ieReg) = some i) : s.check.1 = s.dispatch i := by
  rcases s.check_cases with ⟨idleBits, _⟩ | ⟨_, masked, _⟩ | ⟨_, _, j, leastJ, c⟩
  · rw [idleBits] at least; cases least
  · rw [enabled] at masked; cases masked
  · rw [least] at leastJ; cases leastJ; rw [c]

/-! ## What a dispatch leaves in memory -/

/-- A dispatch leaves flat RAM as its push does. -/
theorem State.read8_dispatch {s : State} {a : Word} (ram : s.onPlatform a = false) (i : Source) :
    (s.dispatch i).read8 a = (s.push16 s.pc).read8 a := by
  simp [State.read8, ram]

theorem State.stored_dispatch_lo {s : State} (h : s.mem.wf = true) (i : Source) :
    Stored (s.sp - 2) (lo s.pc) s (s.dispatch i) :=
  fun ram => (State.read8_dispatch ram i).trans (State.stored_push16_lo h s.pc ram)

theorem State.stored_dispatch_hi {s : State} (h : s.mem.wf = true) (i : Source) :
    Stored (s.sp - 1) (hi s.pc) s (s.dispatch i) :=
  fun ram => (State.read8_dispatch ram i).trans (State.stored_push16_hi h s.pc ram)

theorem State.keepsMemory_dispatch (s : State) (i : Source) : KeepsMemory [s.sp - 2, s.sp - 1] s (s.dispatch i) :=
  fun a out ram => (State.read8_dispatch ram i).trans (State.keepsMemory_push16 s s.pc a out ram)

/-! ## The instructions and their ticks -/

theorem exec_di (s : State) : exec .di s = .next { s with ime := false } := rfl

theorem exec_ei (s : State) : exec .ei s = .next { s with ime := true } := rfl

/-- The state that DI and EI leave to the check of their tick: the one byte fetched, IME written. -/
def State.afterSetIME (s : State) (v : Bool) : State := { s.afterRead8 s.pc with pc := s.pc + 1, ime := v }

/-- Writing IME leaves flat RAM alone, and so does the fetch. -/
theorem State.read8_afterSetIME {s : State} {a : Word} (ram : s.onPlatform a = false) (v : Bool) :
    (s.afterSetIME v).read8 a = s.read8 a :=
  State.read8_afterRead8 ram s.pc

section
variable {s : State} {rest : List Byte} (alive : s.fatal = none) (awake : s.halted = false) (idle : s.env = [])
include alive awake idle

/-- The tick of an instruction that only writes IME is the check of the state with the new IME. -/
theorem step_of_setIME {i : Instr} {v : Bool} (dec : decode s.bytesAtPC = .ok i rest) (plain : i.immediates = [])
    (run : ∀ u, exec i u = .next { u with ime := v }) : step s = .next (s.afterSetIME v).check.1 := by
  have ticked : step s = .next (s.afterSetIME v).finishTick :=
    step_of_fetchInstr alive awake (State.fetchInstr_of_plain dec plain) (run _) alive
  rw [ticked, State.finishTick_idle (s := s.afterSetIME v) idle]

/-- The tick of an EI dispatches the least serviceable source with PC past the EI. -/
theorem step_ei (dec : decode s.bytesAtPC = .ok .ei rest) {i : Source}
    (least : leastSource (serviceable s.ifReg s.ieReg) = some i) : step s = .next ((s.afterSetIME true).dispatch i) := by
  rw [step_of_setIME alive awake idle dec rfl exec_ei, State.check_of_ime (s := s.afterSetIME true) rfl least]

/-- The tick of a DI ends without a dispatch. -/
theorem step_di (dec : decode s.bytesAtPC = .ok .di rest) : step s = .next (s.afterSetIME false) := by
  rw [step_of_setIME alive awake idle dec rfl exec_di, State.check_of_not_ime (s := s.afterSetIME false) rfl awake]

end

/-! ## The obligations -/

/-- Settles O19: each of the two arms writes IME alone. -/
theorem diAndEiWriteOnlyIME : Obligations.DiAndEiWriteOnlyIME := fun s => ⟨exec_di s, exec_ei s⟩

/-- Settles O44: the check of an EI's tick sees IME set and dispatches, that of a DI's sees it cleared and does nothing. -/
theorem eiAndDiActInTheirOwnTick : Obligations.EiAndDiActInTheirOwnTick := by
  intro s rest alive awake idle canonical
  refine ⟨?ei, ?di⟩
  case di => exact step_di alive awake idle
  case ei =>
    intro dec i least
    have canonicalAfter : (s.afterSetIME true).mem.wf = true := canonical
    have kept : KeepsMemory [s.sp - 2, s.sp - 1] s ((s.afterSetIME true).dispatch i) := fun a out ram =>
      ((s.afterSetIME true).keepsMemory_dispatch i a out ram).trans (State.read8_afterSetIME ram true)
    exact ⟨(s.afterSetIME true).dispatch i, step_ei alive awake idle dec least, State.dispatch_pc _ i, State.dispatch_ime _ i,
      State.dispatch_sp _ i, State.stored_dispatch_lo canonicalAfter i, State.stored_dispatch_hi canonicalAfter i, kept,
      State.dispatch_ifReg _ i⟩

end Sys2Proof.Machine
end

section
/-! XOR: the state all three forms leave (43_xor.md R140 to R143). -/

namespace Sys2Proof.Machine

/-! ## F after an XOR -/

@[simp] theorem testFlag_putFlag_same (fl : Flag) (b : Bool) (f : Byte) : testFlag fl (putFlag fl b f) = b := by
  cases b with
  | true => exact testFlag_setFlag_same fl f
  | false => exact testFlag_clearFlag_same fl f

/-- The three flags cleared after Z is written leave it alone. -/
theorem xorFlags_z (res f : Byte) : testFlag .z (xorFlags res f) = decide (res = 0) := by
  rw [xorFlags, testFlag_clearFlag_ne .c .z _ (by decide), testFlag_clearFlag_ne .h .z _ (by decide),
    testFlag_clearFlag_ne .n .z _ (by decide), testFlag_putFlag_same]
  rfl

theorem xorFlags_n (res f : Byte) : testFlag .n (xorFlags res f) = false := by
  rw [xorFlags, testFlag_clearFlag_ne .c .n _ (by decide), testFlag_clearFlag_ne .h .n _ (by decide),
    testFlag_clearFlag_same]

theorem xorFlags_h (res f : Byte) : testFlag .h (xorFlags res f) = false := by
  rw [xorFlags, testFlag_clearFlag_ne .c .h _ (by decide), testFlag_clearFlag_same]

theorem xorFlags_c (res f : Byte) : testFlag .c (xorFlags res f) = false := by
  rw [xorFlags, testFlag_clearFlag_same]

/-- The flags' nibble comes from the result alone, the low nibble from the old F; Z's bit is 0x80 by the positions R12 and D20
give. -/
theorem xorFlags_eq (res f : Byte) : xorFlags res f = (if res = 0 then 0x80 else 0x00) ||| (f &&& 0x0F) := by
  by_cases zero : res = 0
  · rw [xorFlags, beq_iff_eq.mpr zero, if_pos zero]
    revert f
    decide
  · rw [xorFlags, beq_eq_false_iff_ne.mpr zero, if_neg zero]
    revert f
    decide

/-! ## The state after an XOR that has made some reads -/

/-- What an XOR leaves once its operand `v` is known: `xorA`, and a platform history of its own. -/
def State.afterXor (s : State) (v : Byte) (log : List Config.BusEvent) : State := { s.xorA v with busLog := log }

theorem exec_xorReg (r : Reg8) (s : State) : exec (.xorReg r) s = .next (s.afterXor (s.get8 r) s.busLog) := rfl

theorem exec_xorImm (d8 : Byte) (s : State) : exec (.xorImm d8) s = .next (s.afterXor d8 s.busLog) := rfl

/-- R142: HL and A are read as they were before the operand's read, which changes no register. -/
theorem exec_xorIndHL (s : State) :
    exec .xorIndHL s = .next (s.afterXor (s.read8 (pair s.h s.l)) (s.replay [.read (pair s.h s.l)]).busLog) := rfl

theorem State.afterXor_f (s : State) (v : Byte) (log : List Config.BusEvent) :
    (s.afterXor v log).f = xorFlags (s.a ^^^ v) s.f := rfl

section
variable (s : State) (v : Byte) (log : List Config.BusEvent)

theorem State.flagsAre_afterXor : FlagsAre (decide (s.a ^^^ v = 0)) false false false s (s.afterXor v log) :=
  ⟨xorFlags_z _ _, xorFlags_n _ _, xorFlags_h _ _, xorFlags_c _ _, xorFlags_low _ _⟩

/-- With a zero low nibble F is Z's bit or nothing. -/
theorem State.afterXor_f_of_low (low : s.f &&& 0x0F = 0) :
    (s.afterXor v log).f = if s.a ^^^ v = 0 then 0x80 else 0x00 := by
  rw [State.afterXor_f, xorFlags_eq, low]
  exact BitVec.or_zero

theorem State.keepsRegs8_afterXor : KeepsRegs8 [.a] s (s.afterXor v log) := by
  intro r other
  cases r with
  | a => exact absurd (List.mem_singleton_self _) other
  | b | c | d | e | h | l => rfl

theorem State.keepsSystem_afterXor : KeepsSystem s (s.afterXor v log) := ⟨rfl, rfl, rfl, rfl, rfl, rfl, rfl⟩

/-- A byte of flat RAM does not depend on the history. -/
theorem State.keepsMemory_afterXor : KeepsMemory [] s (s.afterXor v log) := by
  intro a _ ram
  have ramAfter : (s.afterXor v log).onPlatform a = false := ram
  simp only [State.read8, ram, ramAfter]
  rfl

end

/-! ## The obligation -/

/-- Settles O22: each form leaves `afterXor` of its operand and of the accesses it has made. -/
theorem xorWritesAAndAllFlags : Obligations.XorWritesAAndAllFlags := by
  intro s i v xs form
  have run : exec i s = .next (s.afterXor v (s.replay xs).busLog) := by
    rcases form with ⟨r, rfl, rfl, rfl⟩ | ⟨rfl, rfl, rfl⟩ | ⟨rfl, rfl⟩
    · exact exec_xorReg r s
    · exact exec_xorIndHL s
    · exact exec_xorImm v s
  exact ⟨_, run, rfl, s.flagsAre_afterXor v _, s.afterXor_f_of_low v _, s.keepsRegs8_afterXor v _, rfl, rfl,
    s.keepsSystem_afterXor v _, s.keepsMemory_afterXor v _, rfl⟩

end Sys2Proof.Machine
end

section
/-! LD without flags: register moves, loads and stores of a byte, the tagged forms that move HL, and the store of SP
(44_ld.md R151 to R168; 40_operands.md R106). -/

namespace Sys2Proof.Machine

/-! ## One equation per instruction -/

theorem exec_ldRegReg (dst src : Reg8) (s : State) : exec (.ldRegReg dst src) s = .next (s.set8 dst (s.get8 src)) := rfl

theorem exec_ldRegImm (dst : Reg8) (d8 : Byte) (s : State) : exec (.ldRegImm dst d8) s = .next (s.set8 dst d8) := rfl

theorem exec_ldRegIndHL (dst : Reg8) (s : State) : exec (.ldRegIndHL dst) s = .next (s.load8 dst (pair s.h s.l)) := rfl

theorem exec_ldAIndBC (s : State) : exec .ldAIndBC s = .next (s.load8 .a (pair s.b s.c)) := rfl

theorem exec_ldAIndDE (s : State) : exec .ldAIndDE s = .next (s.load8 .a (pair s.d s.e)) := rfl

theorem exec_ldAIndImm (a16 : Word) (s : State) : exec (.ldAIndImm a16) s = .next (s.load8 .a a16) := rfl

theorem exec_ldIndHLReg (src : Reg8) (s : State) :
    exec (.ldIndHLReg src) s = .next (s.write8 (pair s.h s.l) (s.get8 src)) := rfl

theorem exec_ldIndHLImm (d8 : Byte) (s : State) : exec (.ldIndHLImm d8) s = .next (s.write8 (pair s.h s.l) d8) := rfl

theorem exec_ldIndBCA (s : State) : exec .ldIndBCA s = .next (s.write8 (pair s.b s.c) s.a) := rfl

theorem exec_ldIndDEA (s : State) : exec .ldIndDEA s = .next (s.write8 (pair s.d s.e) s.a) := rfl

theorem exec_ldIndHLIncA (s : State) :
    exec .ldIndHLIncA s = .next ((s.write8 (pair s.h s.l) s.a).set16 .hl (pair s.h s.l + 1)) := rfl

theorem exec_ldIndHLDecA (s : State) :
    exec .ldIndHLDecA s = .next ((s.write8 (pair s.h s.l) s.a).set16 .hl (pair s.h s.l - 1)) := rfl

/-- The addend applies to HL as it was: a load into A leaves H and L. -/
theorem exec_ldAIndHLInc (s : State) :
    exec .ldAIndHLInc s = .next ((s.load8 .a (pair s.h s.l)).set16 .hl (pair s.h s.l + 1)) := rfl

theorem exec_ldAIndHLDec (s : State) :
    exec .ldAIndHLDec s = .next ((s.load8 .a (pair s.h s.l)).set16 .hl (pair s.h s.l - 1)) := rfl

theorem exec_ldIndImmSP (a16 : Word) (s : State) : exec (.ldIndImmSP a16) s = .next (s.write16 a16 s.sp) := rfl

theorem exec_ldPairImm (rr : Reg16) (d16 : Word) (s : State) : exec (.ldPairImm rr d16) s = .next (s.set16 rr d16) := rfl

theorem exec_ldSPHL (s : State) : exec .ldSPHL s = .next (s.set16 .sp (pair s.h s.l)) := rfl

/-! ## A byte written to a register, after some reads or none -/

/-- What a byte load leaves once its source `v` is known: the destination written, and a platform history of its own. -/
def State.afterLoad (s : State) (dst : Reg8) (v : Byte) (log : List Config.BusEvent) : State :=
  State.set8 { s with busLog := log } dst v

theorem State.set8_eq_afterLoad (s : State) (dst : Reg8) (v : Byte) : s.set8 dst v = s.afterLoad dst v s.busLog := rfl

theorem State.load8_eq_afterLoad (s : State) (dst : Reg8) (addr : Word) :
    s.load8 dst addr = s.afterLoad dst (s.read8 addr) (s.replay [.read addr]).busLog := rfl

section
variable (s : State) (dst : Reg8) (v : Byte) (log : List Config.BusEvent)

@[simp] theorem State.afterLoad_f : (s.afterLoad dst v log).f = s.f := State.set8_f _ dst v
@[simp] theorem State.afterLoad_sp : (s.afterLoad dst v log).sp = s.sp := State.set8_sp _ dst v
@[simp] theorem State.afterLoad_pc : (s.afterLoad dst v log).pc = s.pc := State.set8_pc _ dst v
@[simp] theorem State.afterLoad_busLog : (s.afterLoad dst v log).busLog = log := State.set8_busLog _ dst v

@[simp] theorem State.get8_afterLoad : (s.afterLoad dst v log).get8 dst = v := State.get8_set8_same _ dst v

theorem State.keepsRegs8_afterLoad : KeepsRegs8 [dst] s (s.afterLoad dst v log) := by
  intro r out
  have ne : r ≠ dst := by simpa using out
  calc (s.afterLoad dst v log).get8 r
    _ = State.get8 { s with busLog := log } r := State.get8_set8_ne _ dst r v ne
    _ = s.get8 r := by cases r <;> rfl

theorem State.keepsSystem_afterLoad : KeepsSystem s (s.afterLoad dst v log) :=
  ⟨State.set8_ime _ dst v, State.set8_ifReg _ dst v, State.set8_ieReg _ dst v, State.set8_halted _ dst v,
    State.set8_fatal _ dst v, State.set8_platform _ dst v, State.set8_env _ dst v⟩

/-- A byte of flat RAM depends neither on the history nor on a register. -/
theorem State.keepsMemory_afterLoad : KeepsMemory [] s (s.afterLoad dst v log) := by
  intro a _ ram
  have ramAfter : State.onPlatform { s with busLog := log } a = false := ram
  rw [State.afterLoad, State.read8_set8, State.read8, State.read8, ram, ramAfter]
  rfl

end

/-! ## A byte written to memory -/

theorem State.stored_write8 {s : State} (h : s.mem.wf = true) (a : Word) (v : Byte) : Stored a v s (s.write8 a v) :=
  fun ram => State.read8_write8_same h ram v

theorem State.keepsMemory_write8 (s : State) (a : Word) (v : Byte) : KeepsMemory [a] s (s.write8 a v) :=
  fun _ out ram => State.read8_write8_ne ram a v (by simpa using out)

theorem State.busSaw_write8 (s : State) (a : Word) (v : Byte) : BusSaw [.write a v] s (s.write8 a v) := rfl

theorem State.keepsRegs8_write8 (s : State) (a : Word) (v : Byte) : KeepsRegs8 [] s (s.write8 a v) :=
  fun r _ => s.get8_write8 r a v

theorem State.keepsSystem_write8 (s : State) (a : Word) (v : Byte) : KeepsSystem s (s.write8 a v) :=
  ⟨rfl, rfl, rfl, rfl, rfl, rfl, rfl⟩

/-! ## A word written to memory -/

@[simp] theorem State.get8_write16 (s : State) (r : Reg8) (a v : Word) : (s.write16 a v).get8 r = s.get8 r := by
  rw [State.write16_eq]
  cases r <;> rfl

theorem State.keepsSystem_write16 (s : State) (a v : Word) : KeepsSystem s (s.write16 a v) :=
  ⟨s.write16_ime a v, s.write16_ifReg a v, s.write16_ieReg a v, s.write16_halted a v, s.write16_fatal a v,
    s.write16_platform a v, s.write16_env a v⟩

/-! ## HL moved afterwards

What holds from `s` to `u` still holds once HL of `u` is written, but for H and L. -/

theorem State.pair_set16_hl (u : State) (w : Word) : pair (u.set16 .hl w).h (u.set16 .hl w).l = w :=
  u.get16_set16_same .hl w

theorem State.get8_set16_hl_ne (u : State) (w : Word) {r : Reg8} (high : r ≠ .h) (low : r ≠ .l) :
    (u.set16 .hl w).get8 r = u.get8 r := by
  cases r with
  | h => exact absurd rfl high
  | l => exact absurd rfl low
  | a | b | c | d | e => rfl

section
variable {s u : State} (w : Word)

theorem Stored.set16_hl {a : Word} {v : Byte} (stored : Stored a v s u) : Stored a v s (u.set16 .hl w) :=
  fun ram => (u.read8_set16 .hl w a).trans (stored ram)

theorem KeepsMemory.set16_hl {as : List Word} (kept : KeepsMemory as s u) : KeepsMemory as s (u.set16 .hl w) :=
  fun a out ram => (u.read8_set16 .hl w a).trans (kept a out ram)

theorem KeepsRegs8.set16_hl {rs : List Reg8} (kept : KeepsRegs8 rs s u) : KeepsRegs8 (rs ++ [.h, .l]) s (u.set16 .hl w) := by
  intro r out
  obtain ⟨other, high, low⟩ : r ∉ rs ∧ r ≠ .h ∧ r ≠ .l := by simpa using out
  rw [u.get8_set16_hl_ne w high low, kept r other]

theorem KeepsSystem.set16_hl (kept : KeepsSystem s u) : KeepsSystem s (u.set16 .hl w) := kept

end

/-- A tagged store ends as a store at HL's old value with HL at its new one; `w` is where the tag moves HL. -/
theorem State.taggedStore_leaves {s : State} (h : s.mem.wf = true) {i : Instr} {w : Word}
    (run : exec i s = .next ((s.write8 (pair s.h s.l) s.a).set16 .hl w)) :
    ∃ t, exec i s = .next t ∧ Stored (pair s.h s.l) s.a s t ∧ pair t.h t.l = w ∧
      KeepsMemory [pair s.h s.l] s t ∧ BusSaw [.write (pair s.h s.l) s.a] s t ∧ KeepsRegs8 [.h, .l] s t ∧ t.f = s.f ∧
      t.sp = s.sp ∧ t.pc = s.pc ∧ KeepsSystem s t :=
  ⟨_, run, (State.stored_write8 h _ _).set16_hl w, State.pair_set16_hl _ w, (s.keepsMemory_write8 _ _).set16_hl w,
    s.busSaw_write8 _ _, (s.keepsRegs8_write8 _ _).set16_hl w, rfl, rfl, rfl, (s.keepsSystem_write8 _ _).set16_hl w⟩

/-- A tagged load ends as a load of A from HL's old value with HL at its new one; `w` is where the tag moves HL. -/
theorem State.taggedLoad_leaves {s : State} {i : Instr} {w : Word}
    (run : exec i s = .next ((s.load8 .a (pair s.h s.l)).set16 .hl w)) :
    ∃ t, exec i s = .next t ∧ t.a = s.read8 (pair s.h s.l) ∧ pair t.h t.l = w ∧ KeepsMemory [] s t ∧
      BusSaw [.read (pair s.h s.l)] s t ∧ KeepsRegs8 [.a, .h, .l] s t ∧ t.f = s.f ∧ t.sp = s.sp ∧ t.pc = s.pc ∧
      KeepsSystem s t := by
  rw [State.load8_eq_afterLoad] at run
  exact ⟨_, run, rfl, State.pair_set16_hl _ w, (s.keepsMemory_afterLoad .a _ _).set16_hl w, rfl,
    (s.keepsRegs8_afterLoad .a _ _).set16_hl w, rfl, rfl, rfl, (s.keepsSystem_afterLoad .a _ _).set16_hl w⟩

/-! ## The obligations -/

/-- Settles O23: each form leaves `afterLoad` of its source and of the reads it has made. -/
theorem byteLoadsWriteTheirRegister : Obligations.ByteLoadsWriteTheirRegister := by
  intro s i dst v xs form
  have run : exec i s = .next (s.afterLoad dst v (s.replay xs).busLog) := by
    rcases form with ⟨src, rfl, rfl, rfl⟩ | ⟨rfl, rfl⟩ | ⟨addr, rfl, rfl, fromMemory⟩
    · exact exec_ldRegReg dst src s
    · exact exec_ldRegImm dst v s
    · rw [← State.load8_eq_afterLoad]
      rcases fromMemory with ⟨rfl, rfl⟩ | ⟨rfl, rfl, rfl⟩ | ⟨rfl, rfl, rfl⟩ | ⟨rfl, rfl⟩
      · exact exec_ldRegIndHL dst s
      · exact exec_ldAIndBC s
      · exact exec_ldAIndDE s
      · exact exec_ldAIndImm addr s
  exact ⟨_, run, s.get8_afterLoad dst v _, s.keepsRegs8_afterLoad dst v _, s.afterLoad_f dst v _, s.afterLoad_sp dst v _,
    s.afterLoad_pc dst v _, s.keepsSystem_afterLoad dst v _, s.keepsMemory_afterLoad dst v _, s.afterLoad_busLog dst v _⟩

/-- Settles O25: each form is one `write8` of its source at its address. -/
theorem byteStoresWriteOneByte : Obligations.ByteStoresWriteOneByte := by
  intro s i addr v h form
  have run : exec i s = .next (s.write8 addr v) := by
    rcases form with ⟨src, rfl, rfl, rfl⟩ | ⟨rfl, rfl⟩ | ⟨rfl, rfl, rfl⟩ | ⟨rfl, rfl, rfl⟩ | ⟨rfl, rfl⟩
    · exact exec_ldIndHLReg src s
    · exact exec_ldIndHLImm v s
    · exact exec_ldIndBCA s
    · exact exec_ldIndDEA s
    · exact exec_ldIndImmA addr s
  exact ⟨_, run, State.stored_write8 h addr v, s.keepsMemory_write8 addr v, s.busSaw_write8 addr v,
    s.keepsRegs8_write8 addr v, s.write8_f addr v, s.write8_sp addr v, s.write8_pc addr v, s.keepsSystem_write8 addr v⟩

/-- Settles O26: the two forms are one store at the old HL and differ in where HL goes. -/
theorem taggedStoresUseTheOldHL : Obligations.TaggedStoresUseTheOldHL := by
  intro s h
  exact ⟨State.taggedStore_leaves h (exec_ldIndHLIncA s), State.taggedStore_leaves h (exec_ldIndHLDecA s)⟩

/-- Settles O27: the two forms are one load from the old HL and differ in where HL goes. -/
theorem taggedLoadsUseTheOldHL : Obligations.TaggedLoadsUseTheOldHL := by
  intro s
  exact ⟨State.taggedLoad_leaves (exec_ldAIndHLInc s), State.taggedLoad_leaves (exec_ldAIndHLDec s)⟩

/-- Settles O28: the instruction is one 16-bit write of SP, which leaves every register. -/
theorem storeOfSPWritesTwoBytes : Obligations.StoreOfSPWritesTwoBytes := by
  intro s a16 h
  exact ⟨_, exec_ldIndImmSP a16 s, State.stored_write16_lo h a16 s.sp, State.stored_write16_hi h a16 s.sp,
    s.keepsMemory_write16 a16 s.sp, s.busSaw_write16 a16 s.sp, fun r _ => s.get8_write16 r a16 s.sp, s.write16_f a16 s.sp,
    s.write16_sp a16 s.sp, s.write16_pc a16 s.sp, s.keepsSystem_write16 a16 s.sp⟩

/-- Settles O24: each form is one `set16`, at a pair the two halves and at SP the word. -/
theorem wordMovesWriteTheirRegister : Obligations.WordMovesWriteTheirRegister := by
  intro s w
  exact ⟨exec_ldPairImm .bc w s, exec_ldPairImm .de w s, exec_ldPairImm .hl w s, exec_ldPairImm .sp w s, exec_ldSPHL s⟩

end Sys2Proof.Machine
end

section
/-! INC and DEC of a 16-bit register: one register written, no flag and no access (45_inc_dec.md R182, R183). -/

namespace Sys2Proof.Machine

/-! ## One equation per instruction -/

theorem exec_incPair (rr : Reg16) (s : State) : exec (.incPair rr) s = .next (s.set16 rr (s.get16 rr + 1)) := rfl

theorem exec_decPair (rr : Reg16) (s : State) : exec (.decPair rr) s = .next (s.set16 rr (s.get16 rr - 1)) := rfl

/-! ## What a write of a 16-bit register leaves -/

theorem State.keepsSystem_set16 (s : State) (r : Reg16) (w : Word) : KeepsSystem s (s.set16 r w) :=
  ⟨s.set16_ime r w, s.set16_ifReg r w, s.set16_ieReg r w, s.set16_halted r w, s.set16_fatal r w, s.set16_platform r w,
    s.set16_env r w⟩

theorem State.keepsMemory_set16 (s : State) (r : Reg16) (w : Word) : KeepsMemory [] s (s.set16 r w) :=
  fun a _ _ => s.read8_set16 r w a

/-! ## The obligation -/

/-- Settles O33: both are one `set16`, which writes its own register alone. -/
theorem pairIncDecWriteNoFlag : Obligations.PairIncDecWriteNoFlag := by
  intro s rr
  have others : ∀ q, q ≠ rr → (s.set16 rr (s.get16 rr + 1)).get16 q = s.get16 q ∧
      (s.set16 rr (s.get16 rr - 1)).get16 q = s.get16 q :=
    fun q ne => ⟨s.get16_set16_ne rr q _ ne, s.get16_set16_ne rr q _ ne⟩
  exact ⟨_, _, exec_incPair rr s, exec_decPair rr s, s.get16_set16_same rr _, s.get16_set16_same rr _, s.set16_f rr _,
    s.set16_f rr _, others, s.set16_a rr _, s.set16_a rr _, s.set16_pc rr _, s.set16_pc rr _, s.keepsSystem_set16 rr _,
    s.keepsSystem_set16 rr _, s.keepsMemory_set16 rr _, s.keepsMemory_set16 rr _, s.set16_busLog rr _,
    s.set16_busLog rr _⟩

end Sys2Proof.Machine
end

section
/-! What a tick with no environment move can do to IF, and the tick of a halted core (60_exceptions.md R209, R212, R213, R222). -/

namespace Sys2Proof.Machine

/-! ## The source a check dispatches -/

/-- The source selected has its bit set. -/
theorem getLsbD_of_leastSource {v : Byte} {i : Source} (least : leastSource v = some i) : v.getLsbD i.bit = true := by
  unfold leastSource at least
  split_ifs at least with vblank lcdStat timer serial joypad <;> cases least
  exacts [vblank, lcdStat, timer, serial, joypad]

/-- A serviceable bit is set in IF and in IE. -/
theorem getLsbD_of_serviceable {v w : Byte} {k : Nat} (set : (serviceable v w).getLsbD k = true) :
    v.getLsbD k = true ∧ w.getLsbD k = true := by
  rw [serviceable, BitVec.getLsbD_and, BitVec.getLsbD_and, Bool.and_eq_true, Bool.and_eq_true] at set
  exact set.1

/-! ## What happens to IF -/

/-- From `s` to `t` IF is as before, or one source that `s` has pending and enabled was dispatched: its bit of IF and nothing else
of it is cleared, and PC, IME and `halted` are the dispatch's (R209, R213). -/
def ClearsByDispatch (s t : State) : Prop :=
  t.ifReg = s.ifReg ∨
    ∃ i : Source, s.ifReg.getLsbD i.bit = true ∧ s.ieReg.getLsbD i.bit = true ∧ t.ifReg = s.ifReg &&& ~~~i.mask ∧
      t.pc = i.vector ∧ t.ime = false ∧ t.halted = false

/-- Of the state before, only IF and IE matter. -/
theorem ClearsByDispatch.of_eq {s u t : State} (cleared : ClearsByDispatch u t) (keptIF : u.ifReg = s.ifReg)
    (keptIE : u.ieReg = s.ieReg) : ClearsByDispatch s t := by
  rwa [ClearsByDispatch, keptIF, keptIE] at cleared

theorem State.check_clearsByDispatch (s : State) : ClearsByDispatch s s.check.1 := by
  rcases s.check_cases with ⟨_, c⟩ | ⟨_, _, c⟩ | ⟨_, _, i, least, c⟩ <;> rw [c]
  · exact .inl rfl
  · exact .inl rfl
  · obtain ⟨pending, enabled⟩ := getLsbD_of_serviceable (getLsbD_of_leastSource least)
    exact .inr ⟨i, pending, enabled, s.dispatch_ifReg i, s.dispatch_pc i, s.dispatch_ime i, s.dispatch_halted i⟩

/-- With no move pending only the check of the rest of a tick can touch IF. -/
theorem State.finishTick_clearsByDispatch {s : State} (idle : s.env = []) : ClearsByDispatch s s.finishTick := by
  rw [State.finishTick_idle idle]
  exact s.check_clearsByDispatch

/-! ## The halted tick -/

/-- While halted nothing is fetched, whatever the environment has pending (R222). -/
theorem step_of_halted {s : State} (alive : s.fatal = none) (asleep : s.halted = true) : step s = .next s.finishTick := by
  rw [step, State.tick, alive, asleep]
  rfl

/-- A check that dispatches nothing changes at most `halted`. -/
theorem State.check_of_no_dispatch {s : State} (quiet : s.check.2 = none) :
    s.check.1 = { s with halted := s.check.1.halted } := by
  rcases s.check_cases with ⟨_, c⟩ | ⟨_, _, c⟩ | ⟨_, _, i, _, c⟩
  · rw [c]
  · rw [c]
  · rw [c] at quiet; cases quiet

/-- A check wakes a halted core only for a serviceable source: without one it changes nothing (R214). -/
theorem State.hasServiceable_of_wake {s : State} (asleep : s.halted = true) (woken : s.check.1.halted = false) :
    s.HasServiceable := by
  intro nothing
  have unchanged : s.check.1 = s := by rw [State.check, if_pos nothing]
  rw [unchanged, asleep] at woken
  cases woken

/-! ## The obligations -/

/-- Settles O42: an instruction keeps IF and IE, so the check that ends its tick, or is all of a halted one, decides; a tick that
records a fatal error has no check. -/
theorem onlyDispatchClearsARequest : Obligations.OnlyDispatchClearsARequest := by
  intro s t idle stepped
  rcases step_cases stepped with ⟨-, ⟨-, rfl⟩ | ⟨-, i, s2, -, run, rfl⟩ | ⟨-, o, cb, -, rfl⟩⟩
  · exact State.finishTick_clearsByDispatch idle
  · obtain ⟨keptIF, keptIE, -, -, keptEnv⟩ := exec_kept run
    exact (State.finishTick_clearsByDispatch (keptEnv.trans idle)).of_eq keptIF keptIE
  · exact .inl rfl

/-- Settles O50: the tick is the check, which changes more than `halted` only by a dispatch. -/
theorem haltedTickIsACheckAlone : Obligations.HaltedTickIsACheckAlone := by
  intro s alive asleep idle
  have ticked : step s = .next s.check.1 := by rw [step_of_halted alive asleep, State.finishTick_idle idle]
  exact ⟨ticked, State.check_of_no_dispatch, State.hasServiceable_of_wake asleep⟩

end Sys2Proof.Machine
end

section
/-! Decode and encode (30_encoding.md R70 to R86): the row of the opcode map each instruction stands in, that row completed by the
instruction's own immediates, and the opcode byte every row is found at. -/

namespace Sys2Proof

/-! ## From an instruction to its row -/

/-- The row of the opcode map an instruction stands in: itself, or what its immediate was put into. -/
def Instr.row : Instr → Template
  | .jpImm _ => .d16 .jpImm
  | .jpCond cc _ => .d16 (.jpCond cc)
  | .xorImm _ => .d8 .xorImm
  | .ldRegImm dst _ => .d8 (.ldRegImm dst)
  | .ldIndHLImm _ => .d8 .ldIndHLImm
  | .ldPairImm rr _ => .d16 (.ldPairImm rr)
  | .ldIndImmA _ => .d16 .ldIndImmA
  | .ldAIndImm _ => .d16 .ldAIndImm
  | .ldIndImmSP _ => .d16 .ldIndImmSP
  | .ldHLSPImm _ => .r8 .ldHLSPImm
  | i => .op i

/-- The opcode byte finds the instruction's row, whatever register, pair or condition it names. -/
theorem lookup_opcode (i : Instr) : lookup i.opcode false = some i.row := by
  cases i <;> simp only [Instr.opcode]
  case jpCond cc _ => cases cc <;> rfl
  case xorReg r | incReg r | decReg r | ldRegIndHL r | ldIndHLReg r => cases r <;> rfl
  case ldRegImm r _ => cases r <;> rfl
  case ldRegReg dst src => cases dst <;> cases src <;> rfl
  case incPair rr | decPair rr => cases rr <;> rfl
  case ldPairImm rr _ => cases rr <;> rfl
  all_goals rfl

/-- No instruction's opcode byte is 0xCB, which has no row. -/
theorem opcode_ne_cbPrefixByte (i : Instr) : i.opcode ≠ cbPrefixByte := by
  intro isPrefix
  have row := lookup_opcode i
  rw [isPrefix] at row
  exact absurd row (by simp [lookup, cbPrefixByte, opcodeMap, mapRowC])

/-- The row takes the instruction's immediates back from the stream and leaves what follows. -/
theorem Instr.complete_row (i : Instr) (rest : List Byte) : i.row.complete (i.immediates ++ rest) = .ok i rest := by
  cases i <;> simp [Instr.row, Instr.immediates, Template.complete]

/-! ## From a row to its instructions -/

/-- Decode of an instruction went through the row of its first byte, which is not 0xCB. -/
theorem row_of_decode {b : Byte} {bs rest : List Byte} {i : Instr} (dec : decode (b :: bs) = .ok i rest) :
    b ≠ cbPrefixByte ∧ ∃ row, lookup b false = some row ∧ row.complete bs = .ok i rest := by
  by_cases prefixed : b = cbPrefixByte
  · rw [decode, if_pos prefixed] at dec
    cases bs <;> cases dec
  · rw [decode, if_neg prefixed, decodeOpcode] at dec
    cases l : lookup b false with
    | none => rw [l] at dec; cases dec
    | some row => rw [l] at dec; exact ⟨prefixed, row, rfl, dec⟩

/-- A completed row took the instruction's immediates, as many as its format says. -/
theorem Template.immediates_of_complete {row : Template} (keeps : row.KeepsImmediate) {bs rest : List Byte} {i : Instr}
    (done : row.complete bs = .ok i rest) :
    bs = i.immediates ++ rest ∧ i.immediates.length + 1 = row.format.length := by
  cases row with
  | op j => cases done; rw [keeps]; exact ⟨rfl, rfl⟩
  | d8 build | r8 build =>
    match bs, done with
    | v :: _, done => cases done; rw [keeps v]; exact ⟨rfl, rfl⟩
  | d16 build =>
    match bs, done with
    | l :: h :: _, done => cases done; rw [keeps (pair h l), Machine.lo_pair, Machine.hi_pair]; exact ⟨rfl, rfl⟩

/-- The instruction of a row whose immediate is zero. -/
def Template.sample : Template → Instr
  | .op i => i
  | .d8 build | .r8 build => build 0
  | .d16 build => build 0

/-- The opcode byte does not depend on the immediate. -/
def Template.UniformOpcode : Template → Prop
  | .op _ => True
  | .d8 build | .r8 build => ∀ v, (build v).opcode = (build 0).opcode
  | .d16 build => ∀ w, (build w).opcode = (build 0).opcode

/-- The opcode map read row by row. -/
theorem opcodeMap_uniformOpcode : ∀ line ∈ opcodeMap, ∀ cell ∈ line, ∀ row ∈ cell, row.UniformOpcode := by
  simp only [opcodeMap, mapRow0, mapRow1, mapRow2, mapRow3, mapRow4, mapRow5, mapRow6, mapRow7, mapRowNone, mapRowA, mapRowC,
    mapRowD, mapRowE, mapRowF, List.forall_mem_cons, Option.mem_def, Option.some.injEq, forall_eq', Template.UniformOpcode,
    Instr.opcode]
  simp

/-- A row found by `lookup` is a cell of the map. -/
theorem mem_opcodeMap_of_lookup {b : Byte} {row : Template} (l : lookup b false = some row) :
    ∃ line ∈ opcodeMap, some row ∈ line := by
  rw [lookup, if_neg Bool.false_ne_true, Option.join_eq_some_iff] at l
  cases line : opcodeMap[b.toNat / 16]? with
  | none => simp [line] at l
  | some cells =>
    rw [line] at l
    exact ⟨cells, List.mem_of_getElem? line, List.mem_of_getElem? l⟩

/-- Every row stands in the map at its own opcode byte. -/
theorem opcode_sample_of_lookup {b : Byte} {row : Template} (l : lookup b false = some row) : row.sample.opcode = b := by
  have everyByte : ∀ b : Byte, (lookup b false).all (fun row => row.sample.opcode == b) = true := by decide
  have here := everyByte b
  rwa [l, Option.all_some, beq_iff_eq] at here

/-- The instruction a row completes to has the opcode byte of the row's place. -/
theorem opcode_of_complete {b : Byte} {row : Template} (l : lookup b false = some row) {bs rest : List Byte} {i : Instr}
    (done : row.complete bs = .ok i rest) : i.opcode = b := by
  obtain ⟨line, inMap, inLine⟩ := mem_opcodeMap_of_lookup l
  have uniform := opcodeMap_uniformOpcode line inMap (some row) inLine row rfl
  rw [← opcode_sample_of_lookup l]
  cases row with
  | op j => cases done; rfl
  | d8 build | r8 build =>
    match bs, done with
    | v :: _, done => cases done; exact uniform v
  | d16 build =>
    match bs, done with
    | l :: h :: _, done => cases done; exact uniform (pair h l)

/-- What a decoded instruction says of the bytes: its opcode byte first, its immediates next, their number the row's. -/
theorem decode_ok {b : Byte} {bs rest : List Byte} {i : Instr} (dec : decode (b :: bs) = .ok i rest) :
    i.opcode = b ∧ bs = i.immediates ++ rest ∧ i.immediates.length = bytesAfter b := by
  obtain ⟨noPrefix, row, l, done⟩ := row_of_decode dec
  obtain ⟨bytes, count⟩ := Template.immediates_of_complete (lookup_keepsImmediate l) done
  rw [Machine.bytesAfter_row noPrefix l]
  exact ⟨opcode_of_complete l done, bytes, by omega⟩

/-! ## Lengths -/

theorem Format.length_le_three (f : Format) : f.length ≤ 3 := by cases f <;> decide

/-- No instruction has more than two bytes after its first. -/
theorem bytesAfter_le_two (b : Byte) : bytesAfter b ≤ 2 := by
  by_cases prefixed : b = cbPrefixByte
  · rw [bytesAfter, if_pos prefixed]
    decide
  · cases l : lookup b false with
    | none => rw [bytesAfter, if_neg prefixed, l]; decide
    | some row =>
      rw [Machine.bytesAfter_row prefixed l]
      have := row.format.length_le_three
      omega

/-! ## Bytes without a row -/

/-- A row completed never answers that there is none. -/
theorem Template.complete_ne_noRow (row : Template) (bs : List Byte) (o : Byte) (cb : Bool) :
    row.complete bs ≠ .reject (.noRow o cb) := by
  cases row with
  | op i => simp [Template.complete]
  | d8 build | r8 build => cases bs <;> simp [Template.complete]
  | d16 build => match bs with
    | [] | [_] | _ :: _ :: _ => simp [Template.complete]

/-- Decode of a byte other than 0xCB answers that there is no row exactly where the map has none. -/
theorem decode_noRow_iff {b : Byte} (noPrefix : b ≠ cbPrefixByte) (rest : List Byte) :
    decode (b :: rest) = .reject (.noRow b false) ↔ lookup b false = none := by
  rw [decode, if_neg noPrefix, decodeOpcode]
  cases l : lookup b false with
  | none => simp
  | some row => simpa using row.complete_ne_noRow rest b false

/-- Decode after 0xCB finds no row (R78). -/
theorem decode_cb (b : Byte) (rest : List Byte) : decode (cbPrefixByte :: b :: rest) = .reject (.noRow b true) := rfl

/-! ## The obligations -/

/-- Settles O1: the opcode byte finds the instruction's row, and its immediates complete the row. -/
theorem decodeOfEncodeIsTheInstruction : Obligations.DecodeOfEncodeIsTheInstruction := by
  intro i rest
  rw [encode, List.cons_append, decode, if_neg (opcode_ne_cbPrefixByte i), decodeOpcode, lookup_opcode]
  exact i.complete_row rest

/-- Settles O2: the row of the first byte stands at its own opcode, and it took the immediates. -/
theorem decodedBytesAreTheEncoding : Obligations.DecodedBytesAreTheEncoding := by
  intro bs i rest dec
  cases bs with
  | nil => cases dec
  | cons b bs =>
    obtain ⟨opcode, bytes, -⟩ := decode_ok dec
    rw [encode, opcode, List.cons_append, ← bytes]

/-- Settles O4: the map's empty cells, read over all 256 bytes, and the empty CB region. -/
theorem unadmittedBytesAreRejected : Obligations.UnadmittedBytesAreRejected := by
  refine ⟨fun b rest noPrefix => ?_, decode_cb⟩
  rw [decode_noRow_iff noPrefix, ← Option.isNone_iff_eq_none]
  revert b
  decide

/-- Settles O5: the number of immediate bytes is the row's, which the first byte alone selects. -/
theorem firstByteFixesTheLength : Obligations.FirstByteFixesTheLength := by
  intro b r₁ r₂ rest₁ rest₂ i₁ i₂ dec₁ dec₂
  obtain ⟨-, bytes, count₁⟩ := decode_ok dec₁
  obtain ⟨-, -, count₂⟩ := decode_ok dec₂
  have short := bytesAfter_le_two b
  have total₁ : i₁.length = i₁.immediates.length + 1 := rfl
  have total₂ : i₂.length = i₂.immediates.length + 1 := rfl
  have taken : (b :: r₁).length = i₁.immediates.length + rest₁.length + 1 := by rw [bytes]; simp
  omega

/-- Settles O3, word by word. -/
theorem specWordsDecode : Obligations.SpecWordsDecode := by
  refine ⟨rfl, ?_, ?_, rfl, rfl, ?_, rfl, ?_, rfl, rfl, rfl⟩ <;> decide

end Sys2Proof
end

section
/-! The register file: pairs as views of their halves, and whole-byte writes to F (10_state.md R12 to R18). -/

namespace Sys2Proof.Machine

/-! ## One register written -/

theorem State.keepsRegs8_set8 (s : State) (r : Reg8) (v : Byte) : KeepsRegs8 [r] s (s.set8 r v) :=
  fun q out => s.get8_set8_ne r q v (by simpa using out)

/-- F is none of the seven operand registers. -/
theorem State.keepsRegs8_setF (s : State) (v : Byte) : KeepsRegs8 [] s (s.setF v) := by
  intro r _
  cases r <;> rfl

/-! ## F as a whole byte -/

theorem maskF_high (v : Byte) : maskF v &&& 0xF0 = v &&& 0xF0 := by rw [maskF, BitVec.and_assoc, BitVec.and_self]

/-- The bit each flag is (R12). -/
def Flag.index : Flag → Nat
  | .z => 7
  | .n => 6
  | .h => 5
  | .c => 4

theorem testFlag_eq_getLsbD (fl : Flag) (f : Byte) : testFlag fl f = f.getLsbD fl.index := by
  revert f
  cases fl <;> decide

/-! ## The obligations -/

/-- Settles O6: the views are `pair`, whose halves `hi` and `lo` take back, and each write reaches its own registers alone. -/
theorem pairsHaveNoStorageOfTheirOwn : Obligations.PairsHaveNoStorageOfTheirOwn := by
  intro s w v
  refine ⟨⟨rfl, rfl, rfl, rfl⟩, ⟨rfl, rfl, rfl, rfl⟩, ?readBack, ?b, ?c, ?d, ?e, ?h, ?l, ?a, ?f, ?frame,
    s.keepsRegs8_setF v, s.setF_sp v, s.setF_pc v⟩
  case readBack => exact ⟨s.get16_set16_same .bc w, s.get16_set16_same .de w, s.get16_set16_same .hl w⟩
  case frame => exact fun r => ⟨s.keepsRegs8_set8 r v, s.set8_f r v, s.set8_sp r v, s.set8_pc r v⟩
  all_goals exact ⟨hi_pair _ _, lo_pair _ _⟩

/-- Settles O9: a flag is its bit, and `maskF` keeps the high nibble and drops the low one. -/
theorem wholeByteWriteToFDropsTheLowNibble : Obligations.WholeByteWriteToFDropsTheLowNibble := by
  intro s v w
  exact ⟨⟨testFlag_eq_getLsbD .z s.f, testFlag_eq_getLsbD .n s.f, testFlag_eq_getLsbD .h s.f, testFlag_eq_getLsbD .c s.f⟩,
    maskF_low v, maskF_high v, maskF_low (lo w), maskF_high (lo w), rfl⟩

end Sys2Proof.Machine
end

section
/-! The bus: a byte at flat RAM or at the platform, a word in either order of its bytes, and code in flat RAM (20_memory.md R41 to
R46, R51, R52; 30_encoding.md R81). -/

namespace Sys2Proof.Machine

/-! ## Byte accesses -/

theorem State.write8_ram {s : State} {a : Word} (ram : s.onPlatform a = false) (v : Byte) :
    s.write8 a v = { s with mem := s.mem.write a.toNat v } := by
  rw [State.write8, State.access, State.logAfter_ram (x := .write a v) ram, ← State.memAfter_ram ram v]
  rfl

theorem State.write8_of_onPlatform {s : State} {a : Word} (plat : s.onPlatform a = true) (v : Byte) :
    s.write8 a v = { s with busLog := .write a v :: s.busLog } := by
  rw [State.write8, State.access, State.logAfter_platform (x := .write a v) plat, State.memAfter, if_pos plat]

theorem State.afterRead8_of_onPlatform {s : State} {a : Word} (plat : s.onPlatform a = true) :
    s.afterRead8 a = { s with busLog := .read a :: s.busLog } := by
  rw [State.afterRead8_eq, State.logAfter_platform (x := .read a) plat]

/-! ## Accesses at two addresses of which at most one is the platform's -/

/-- Two writes to different addresses of a canonical memory can be made in either order. -/
theorem Memory.write_comm {m : Memory} (h : m.wf = true) {a b : Nat} (la : a < 65536) (lb : b < 65536) (ne : a ≠ b)
    (v w : Byte) : (m.write a v).write b w = (m.write b w).write a v := by
  refine Memory.eq_of_read (Memory.wf_write (Memory.wf_write h la) lb) (Memory.wf_write (Memory.wf_write h lb) la) fun x => ?_
  by_cases atB : x = b
  · subst atB
    rw [Memory.read_write_same (Memory.wf_write h la), Memory.read_write_ne (Ne.symm ne), Memory.read_write_same h]
  · rw [Memory.read_write_ne atB]
    by_cases atA : x = a
    · subst atA
      rw [Memory.read_write_same h, Memory.read_write_same (Memory.wf_write h lb)]
    · rw [Memory.read_write_ne atA, Memory.read_write_ne atA, Memory.read_write_ne atB]

/-- Two byte writes of which the platform sees at most one can be made in either order. -/
theorem State.write8_comm {s : State} (h : s.mem.wf = true) {a b : Word} (ne : a ≠ b)
    (ram : s.onPlatform a = false ∨ s.onPlatform b = false) (v w : Byte) :
    (s.write8 a v).write8 b w = (s.write8 b w).write8 a v := by
  have onA : ∀ x, (s.write8 x w).onPlatform a = s.onPlatform a := fun x => s.write8_onPlatform x w a
  have onB : ∀ x, (s.write8 x v).onPlatform b = s.onPlatform b := fun x => s.write8_onPlatform x v b
  cases ha : s.onPlatform a <;> cases hb : s.onPlatform b
  · rw [State.write8_ram ((onB a).trans hb), State.write8_ram ((onA b).trans ha), State.write8_ram ha, State.write8_ram hb,
      Memory.write_comm h a.isLt b.isLt (fun e => ne (BitVec.eq_of_toNat_eq e))]
  · rw [State.write8_of_onPlatform ((onB a).trans hb), State.write8_ram ((onA b).trans ha), State.write8_ram ha,
      State.write8_of_onPlatform hb]
  · rw [State.write8_ram ((onB a).trans hb), State.write8_of_onPlatform ((onA b).trans ha), State.write8_of_onPlatform ha,
      State.write8_ram hb]
  · rw [ha, hb] at ram
    rcases ram with ram | ram <;> cases ram

/-- Two byte reads of which the platform sees at most one can be made in either order. -/
theorem State.afterRead8_comm {s : State} {a b : Word} (ram : s.onPlatform a = false ∨ s.onPlatform b = false) :
    (s.afterRead8 a).afterRead8 b = (s.afterRead8 b).afterRead8 a := by
  rcases ram with ram | ram
  · rw [State.afterRead8_ram ram, State.afterRead8_ram ((s.afterRead8_onPlatform b a).trans ram)]
  · rw [State.afterRead8_ram ram, State.afterRead8_ram ((s.afterRead8_onPlatform a b).trans ram)]

/-- A byte read after another access of which the platform sees at most one of the two answers as before it. -/
theorem State.read8_afterRead8_of_ram {s : State} {a b : Word} (ram : s.onPlatform a = false ∨ s.onPlatform b = false) :
    (s.afterRead8 a).read8 b = s.read8 b := by
  rcases ram with ram | ram
  · rw [State.afterRead8_ram ram]
  · exact State.read8_afterRead8 ram a

/-! ## Words -/

section
variable {s : State} {a : Word} (ram : s.onPlatform a = false ∨ s.onPlatform (a + 1) = false) (o : Config.WordAccessOrder)
include ram

theorem State.read16In_eq_loFirst : s.read16In o a = s.read16In .loFirst a := by
  cases o with
  | loFirst => rfl
  | hiFirst =>
    rw [State.read16In, State.read16In, State.read8_afterRead8_of_ram ram, State.read8_afterRead8_of_ram ram.symm]

theorem State.afterRead16In_eq_loFirst : s.afterRead16In o a = s.afterRead16In .loFirst a := by
  cases o with
  | loFirst => rfl
  | hiFirst => exact (State.afterRead8_comm ram).symm

theorem State.write16In_eq_loFirst (h : s.mem.wf = true) (v : Word) : s.write16In o a v = s.write16In .loFirst a v := by
  cases o with
  | loFirst => rfl
  | hiFirst => exact (State.write8_comm h (by simp) ram (lo v) (hi v)).symm

/-- Unless both bytes are the platform's, the order taken for a word does not matter to what is read. -/
theorem State.read16_eq_read16In : s.read16 a = s.read16In o a := by
  rw [State.read16, State.wordOrder_ram .loFirst ram, State.read16In_eq_loFirst ram o]

theorem State.afterRead16_eq_afterRead16In : s.afterRead16 a = s.afterRead16In o a := by
  rw [State.afterRead16, State.wordOrder_ram .loFirst ram, State.afterRead16In_eq_loFirst ram o]

theorem State.write16_eq_write16In (h : s.mem.wf = true) (v : Word) : s.write16 a v = s.write16In o a v := by
  rw [State.write16, State.wordOrder_ram .loFirst ram, State.write16In_eq_loFirst ram o h]

end

/-- What two accesses at the platform's addresses leave of its history. -/
theorem State.busLog_access_platform {s : State} {x y : Config.BusEvent} (first : s.onPlatform (addrOf x) = true)
    (second : s.onPlatform (addrOf y) = true) : ((s.access x).access y).busLog = y :: x :: s.busLog := by
  rw [State.access_busLog, State.logAfter_platform (by rwa [State.access_onPlatform]), State.access_busLog,
    State.logAfter_platform first]

section
variable {s : State} {a : Word} (first : s.onPlatform a = true) (second : s.onPlatform (a + 1) = true)
  (o : Config.WordAccessOrder)
include first second

theorem State.busLog_write16In_platform (v : Word) :
    (s.write16In o a v).busLog = (write16Accesses o a v).reverse ++ s.busLog := by
  cases o with
  | loFirst => exact State.busLog_access_platform (x := .write a (lo v)) (y := .write (a + 1) (hi v)) first second
  | hiFirst => exact State.busLog_access_platform (x := .write (a + 1) (hi v)) (y := .write a (lo v)) second first

theorem State.busLog_afterRead16In_platform : (s.afterRead16In o a).busLog = (read16Accesses o a).reverse ++ s.busLog := by
  cases o with
  | loFirst => exact State.busLog_access_platform (x := .read a) (y := .read (a + 1)) first second
  | hiFirst => exact State.busLog_access_platform (x := .read (a + 1)) (y := .read a) second first

end

/-! ## A word of flat RAM -/

theorem State.busLog_write8_ram {s : State} {a : Word} (ram : s.onPlatform a = false) (v : Byte) :
    (s.write8 a v).busLog = s.busLog := State.logAfter_ram (x := .write a v) ram

theorem State.busLog_write16_ram {s : State} {a : Word} (first : s.onPlatform a = false)
    (second : s.onPlatform (a + 1) = false) (v : Word) : (s.write16 a v).busLog = s.busLog := by
  rw [State.write16, State.wordOrder_ram .loFirst (.inl first), State.write16In,
    State.busLog_write8_ram (by rwa [State.write8_onPlatform]), State.busLog_write8_ram first]

/-- Flat RAM gives back the word written. -/
theorem State.read16_write16 {s : State} (h : s.mem.wf = true) {a : Word} (first : s.onPlatform a = false)
    (second : s.onPlatform (a + 1) = false) (v : Word) : (s.write16 a v).read16 a = v := by
  rw [State.read16_ram (by rwa [State.write16_onPlatform]) (by rwa [State.write16_onPlatform]),
    State.stored_write16_lo h a v first, State.stored_write16_hi h a v second, pair_hi_lo]

/-! ## Code in flat RAM -/

/-- PC past two bytes, one after the other. -/
theorem add_one_add_one (w : Word) : w + 1 + 1 = w + 2 := by
  rw [BitVec.add_assoc]
  rfl

/-- Reads of flat RAM leave the platform's history alone. -/
theorem State.busLog_replay_of_ram {s : State} {xs : List Config.BusEvent} (ram : ∀ x ∈ xs, s.onPlatform (addrOf x) = false) :
    (s.replay xs).busLog = s.busLog := by
  induction xs generalizing s with
  | nil => rfl
  | cons x xs ih =>
    obtain ⟨first, rest⟩ := List.forall_mem_cons.mp ram
    have later := ih (s := s.access x) fun y mem => (s.access_onPlatform x _).trans (rest y mem)
    exact later.trans (State.logAfter_ram first)

/-- The immediate reads of a row are at the first address and the next one. -/
theorem addrOf_immediateAccesses {o : Config.WordAccessOrder} {a : Word} {f : Format} {x : Config.BusEvent}
    (mem : x ∈ immediateAccesses o a f) : addrOf x = a ∨ addrOf x = a + 1 := by
  cases f with
  | op => cases mem
  | opD8 | opR8 => rw [List.mem_singleton.mp mem]; exact .inl rfl
  | opD16 =>
    cases o with
    | loFirst =>
      rcases List.mem_pair.mp mem with rfl | rfl
      exacts [.inl rfl, .inr rfl]
    | hiFirst =>
      rcases List.mem_pair.mp mem with rfl | rfl
      exacts [.inr rfl, .inl rfl]

/-- The reads of a fetch are at the three addresses from PC on. -/
theorem State.addrOf_fetchAccesses {s : State} {o : Config.WordAccessOrder} {x : Config.BusEvent}
    (mem : x ∈ s.fetchAccesses o) : addrOf x = s.pc ∨ addrOf x = s.pc + 1 ∨ addrOf x = s.pc + 2 := by
  rw [State.fetchAccesses] at mem
  rcases List.mem_cons.mp mem with rfl | mem
  · exact .inl rfl
  · refine .inr ?_
    split at mem
    · rw [List.mem_singleton.mp mem]; exact .inl rfl
    · split at mem
      · cases mem
      · rw [← add_one_add_one]; exact addrOf_immediateAccesses mem

/-! ## The obligations -/

/-- Settles O10, from what a write of a word puts where and the order's being invisible on flat RAM. -/
theorem wordAccessesAreTwoLittleEndianBytes : Obligations.WordAccessesAreTwoLittleEndianBytes := by
  intro s o a v h
  refine ⟨fun first second => ⟨?read, ?write⟩, ?byte, s.keepsMemory_write8 a (lo v)⟩
  case read =>
    have unchanged := State.afterRead16_ram first second
    rw [State.read16_eq_read16In (.inl first) o, ← State.afterRead16_eq_afterRead16In (.inl first) o, unchanged,
      ← State.read16_eq_read16In (.inl first) o, State.read16_ram first second]
    exact ⟨lo_pair _ _, hi_pair _ _, rfl, rfl, rfl⟩
  case write =>
    exact ⟨(State.write16_eq_write16In (.inl first) o h v).symm, State.stored_write16_lo h a v first,
      State.stored_write16_hi h a v second, State.read16_write16 h first second v, s.keepsMemory_write16 a v,
      State.busLog_write16_ram first second v⟩
  case byte => exact fun ram => ⟨State.read8_write8_same h ram (lo v), State.busLog_write8_ram ram (lo v)⟩

/-- Settles O11: one equation per access and kind of address. -/
theorem byteAccessesReachRamOrThePlatform : Obligations.ByteAccessesReachRamOrThePlatform := by
  intro s a v
  refine ⟨fun ram => ?ram, fun plat => ?platform⟩
  case ram =>
    exact ⟨State.afterRead8_ram ram, State.write8_ram ram v, fun h => ⟨State.read8_write8_same h ram v, State.wf_write8 h a v⟩⟩
  case platform => exact ⟨State.read8_platform plat, State.afterRead8_of_onPlatform plat, State.write8_of_onPlatform plat v⟩

/-- Settles O12: with a byte in flat RAM the two accesses commute, and with none the order is the free one. -/
theorem wordAccessOrderCannotBeSeen : Obligations.WordAccessOrderCannotBeSeen := by
  intro s o a v h
  refine ⟨fun ram => ?ram, fun first second => ?platform⟩
  case ram =>
    exact ⟨State.write16_eq_write16In ram o h v, State.read16_eq_read16In ram o, State.afterRead16_eq_afterRead16In ram o⟩
  case platform =>
    rw [State.write16, State.read16, State.afterRead16, State.wordOrder_platform .loFirst first second]
    exact ⟨rfl, State.busLog_write16In_platform first second _ v, rfl, State.busLog_afterRead16In_platform first second _⟩

/-- Settles O14: reads of flat RAM change nothing, so each byte of the instruction is read from the state at PC. -/
theorem codeInRamIsWhatMemoryHolds : Obligations.CodeInRamIsWhatMemoryHolds := by
  intro s ram₀ ram₁ ram₂
  have word := State.read16_ram ram₁ (by rwa [add_one_add_one])
  have bytes : s.bytesAtPC =
      [s.read8 s.pc, s.read8 (s.pc + 1), s.read8 (s.pc + 2)].take (bytesAfter (s.read8 s.pc) + 1) := by
    rw [State.bytesAtPC, State.afterRead8_ram ram₀, word, add_one_add_one, lo_pair, hi_pair]
    have short := bytesAfter_le_two (s.read8 s.pc)
    interval_cases bytesAfter (s.read8 s.pc) <;> rfl
  have count : s.bytesAtPC.length = bytesAfter (s.read8 s.pc) + 1 := by
    have short := bytesAfter_le_two (s.read8 s.pc)
    rw [bytes, List.length_take]
    simp only [List.length_cons, List.length_nil]
    omega
  have unseen : (s.replay (s.fetchAccesses .loFirst)).busLog = s.busLog := by
    refine State.busLog_replay_of_ram fun x mem => ?_
    rcases State.addrOf_fetchAccesses mem with at_ | at_ | at_ <;> rwa [at_]
  refine ⟨bytes, ?_⟩
  rw [State.afterFetch, count, unseen]

end Sys2Proof.Machine
end

section
/-! The instructions that write flags beside a register, INC r, DEC r and LD HL,SP+r8, and HALT (42_di_ei_halt.md R132, R133;
44_ld.md R169; 45_inc_dec.md R180, R181, R184). -/

namespace Sys2Proof.Machine

/-! ## The flags of INC r and DEC r -/

theorem testFlag_putFlag_ne (fl g : Flag) (b : Bool) (f : Byte) (ne : g ≠ fl) :
    testFlag g (putFlag fl b f) = testFlag g f := by
  cases b with
  | true => exact testFlag_setFlag_ne fl g f ne
  | false => exact testFlag_clearFlag_ne fl g f ne

section
variable (old f : Byte)

/-- Z is written first, and the later writes of N and H leave it. -/
theorem incFlags_z : testFlag .z (incFlags .hw old f) = decide (old = 0xFF) := by
  have wraps : ∀ v : Byte, (v + 1 == 0) = decide (v = 0xFF) := by decide
  rw [incFlags, testFlag_putFlag_ne .h .z _ _ (by decide), testFlag_clearFlag_ne .n .z _ (by decide), testFlag_putFlag_same,
    wraps]

theorem incFlags_n : testFlag .n (incFlags .hw old f) = false := by
  rw [incFlags, testFlag_putFlag_ne .h .n _ _ (by decide), testFlag_clearFlag_same]

theorem incFlags_h : testFlag .h (incFlags .hw old f) = decide (old.toNat % 16 = 15) := by
  have nibble : ∀ v : Byte, ((v &&& 0x0F) == 0x0F) = decide (v.toNat % 16 = 15) := by decide
  rw [incFlags, testFlag_putFlag_same, nibble]

theorem incFlags_c : testFlag .c (incFlags .hw old f) = testFlag .c f := by
  rw [incFlags, testFlag_putFlag_ne .h .c _ _ (by decide), testFlag_clearFlag_ne .n .c _ (by decide),
    testFlag_putFlag_ne .z .c _ _ (by decide)]

theorem decFlags_z : testFlag .z (decFlags .hw old f) = decide (old = 1) := by
  have reachesZero : ∀ v : Byte, (v - 1 == 0) = decide (v = 1) := by decide
  rw [decFlags, testFlag_putFlag_ne .h .z _ _ (by decide), testFlag_setFlag_ne .n .z _ (by decide), testFlag_putFlag_same,
    reachesZero]

theorem decFlags_n : testFlag .n (decFlags .hw old f) = true := by
  rw [decFlags, testFlag_putFlag_ne .h .n _ _ (by decide), testFlag_setFlag_same]

theorem decFlags_h : testFlag .h (decFlags .hw old f) = decide (old.toNat % 16 = 0) := by
  have nibble : ∀ v : Byte, ((v &&& 0x0F) == 0x00) = decide (v.toNat % 16 = 0) := by decide
  rw [decFlags, testFlag_putFlag_same, nibble]

theorem decFlags_c : testFlag .c (decFlags .hw old f) = testFlag .c f := by
  rw [decFlags, testFlag_putFlag_ne .h .c _ _ (by decide), testFlag_setFlag_ne .n .c _ (by decide),
    testFlag_putFlag_ne .z .c _ _ (by decide)]

end

/-! ## The flags of LD HL,SP+r8 -/

/-- R169's half carry is the sum of the two low nibbles. -/
theorem spHalfCarry_eq (sp : Word) (r8 : Byte) : spHalfCarry sp r8 = decide (sp.toNat % 16 + r8.toNat % 16 > 15) := by
  have low : (sp &&& 0x000F).toNat = sp.toNat % 16 := by
    rw [BitVec.toNat_and]
    exact Nat.and_two_pow_sub_one_eq_mod sp.toNat 4
  have nibble : (r8 &&& 0x0F).toNat = r8.toNat % 16 := by
    rw [BitVec.toNat_and]
    exact Nat.and_two_pow_sub_one_eq_mod r8.toNat 4
  rw [spHalfCarry, low, nibble]

/-- R169's carry is the sum of SP's low byte and the unsigned byte. -/
theorem spCarry_eq (sp : Word) (r8 : Byte) : spCarry sp r8 = decide (sp.toNat % 256 + r8.toNat > 255) := by
  have low : (sp &&& 0x00FF).toNat = sp.toNat % 256 := by
    rw [BitVec.toNat_and]
    exact Nat.and_two_pow_sub_one_eq_mod sp.toNat 8
  have byte : (r8 &&& 0xFF).toNat = r8.toNat := by
    rw [BitVec.toNat_and]
    exact (Nat.and_two_pow_sub_one_eq_mod r8.toNat 8).trans (Nat.mod_eq_of_lt r8.isLt)
  rw [spCarry, low, byte]

/-- A flag set where a condition holds and otherwise kept is sticky. -/
theorem testFlag_setFlag_if (fl : Flag) (b : Bool) (f : Byte) :
    testFlag fl (if b then setFlag fl f else f) = (testFlag fl f || b) := by
  cases b <;> simp

theorem testFlag_setFlag_if_ne (fl g : Flag) (b : Bool) (f : Byte) (ne : g ≠ fl) :
    testFlag g (if b then setFlag fl f else f) = testFlag g f := by
  cases b with
  | true => exact testFlag_setFlag_ne fl g f ne
  | false => rfl

section
variable (sp : Word) (r8 f : Byte)

theorem spImmFlags_z : testFlag .z (spImmFlags sp r8 f) = false := by
  rw [spImmFlags, testFlag_clearFlag_ne .n .z _ (by decide), testFlag_clearFlag_same]

theorem spImmFlags_n : testFlag .n (spImmFlags sp r8 f) = false := by rw [spImmFlags, testFlag_clearFlag_same]

theorem spImmFlags_h :
    testFlag .h (spImmFlags sp r8 f) = (testFlag .h f || decide (sp.toNat % 16 + r8.toNat % 16 > 15)) := by
  rw [spImmFlags, testFlag_clearFlag_ne .n .h _ (by decide), testFlag_clearFlag_ne .z .h _ (by decide),
    testFlag_setFlag_if_ne .c .h _ _ (by decide), testFlag_setFlag_if, spHalfCarry_eq]

theorem spImmFlags_c :
    testFlag .c (spImmFlags sp r8 f) = (testFlag .c f || decide (sp.toNat % 256 + r8.toNat > 255)) := by
  rw [spImmFlags, testFlag_clearFlag_ne .n .c _ (by decide), testFlag_clearFlag_ne .z .c _ (by decide), testFlag_setFlag_if,
    testFlag_setFlag_if_ne .h .c _ _ (by decide), spCarry_eq]

end

/-! ## F written beside a register

What holds from `s` to `u` still holds once F of `u` is written, and holds from a state to itself. -/

theorem State.get8_withF (u : State) (f : Byte) (r : Reg8) : State.get8 { u with f := f } r = u.get8 r := by
  cases r <;> rfl

section
variable {s u : State} (f : Byte)

theorem KeepsRegs8.withF {rs : List Reg8} (kept : KeepsRegs8 rs s u) : KeepsRegs8 rs s { u with f := f } :=
  fun r out => (u.get8_withF f r).trans (kept r out)

theorem KeepsMemory.withF {as : List Word} (kept : KeepsMemory as s u) : KeepsMemory as s { u with f := f } := kept

theorem KeepsSystem.withF (kept : KeepsSystem s u) : KeepsSystem s { u with f := f } := kept

end

theorem KeepsRegs8.refl (rs : List Reg8) (s : State) : KeepsRegs8 rs s s := fun _ _ => rfl

theorem KeepsMemory.refl (as : List Word) (s : State) : KeepsMemory as s s := fun _ _ _ => rfl

theorem KeepsSystem.refl (s : State) : KeepsSystem s s := ⟨rfl, rfl, rfl, rfl, rfl, rfl, rfl⟩

theorem State.keepsSystem_set8 (s : State) (r : Reg8) (v : Byte) : KeepsSystem s (s.set8 r v) :=
  ⟨s.set8_ime r v, s.set8_ifReg r v, s.set8_ieReg r v, s.set8_halted r v, s.set8_fatal r v, s.set8_platform r v,
    s.set8_env r v⟩

theorem State.keepsMemory_set8 (s : State) (r : Reg8) (v : Byte) : KeepsMemory [] s (s.set8 r v) :=
  fun a _ _ => s.read8_set8 r v a

/-! ## One equation per instruction -/

theorem exec_incReg (r : Reg8) (s : State) :
    exec (.incReg r) s = .next { s.set8 r (s.get8 r + 1) with f := incFlags .hw (s.get8 r) s.f } := rfl

theorem exec_decReg (r : Reg8) (s : State) :
    exec (.decReg r) s = .next { s.set8 r (s.get8 r - 1) with f := decFlags .hw (s.get8 r) s.f } := rfl

theorem exec_ldHLSPImm (r8 : Byte) (s : State) :
    exec (.ldHLSPImm r8) s =
      .next (State.set16 { s with f := spImmFlags s.sp r8 s.f } .hl (s.sp + r8.signExtend 16)) := rfl

/-- R133's condition as the rule words it. -/
theorem State.haltBugCase_iff (s : State) :
    s.haltBugCase = true ↔ s.ime = false ∧ s.ifReg &&& s.ieReg &&& 0x1F ≠ 0 := by
  rw [State.haltBugCase, Bool.and_eq_true, Bool.not_eq_true', bne_iff_ne]
  rfl

theorem exec_halt_of_haltBugCase {s : State} (bug : s.haltBugCase = true) : exec .halt s = .refused .haltBug := if_pos bug

theorem exec_halt_of_not_haltBugCase {s : State} (fine : ¬ s.haltBugCase = true) :
    exec .halt s = .next { s with halted := true } := if_neg fine

/-! ## The obligations -/

/-- Settles O29: HL is written after F, and R169's two conditions are sums of unsigned low parts. -/
theorem loadHLFromSPIsSticky : Obligations.LoadHLFromSPIsSticky := by
  intro s r8
  exact ⟨_, exec_ldHLSPImm r8 s, State.pair_set16_hl _ _,
    ⟨spImmFlags_z _ _ _, spImmFlags_n _ _ _, spImmFlags_h _ _ _, spImmFlags_c _ _ _, spImmFlags_low _ _ _⟩,
    ((KeepsRegs8.refl [] s).withF _).set16_hl _, rfl, rfl, ((KeepsSystem.refl s).withF _).set16_hl _,
    ((KeepsMemory.refl [] s).withF _).set16_hl _, rfl⟩

/-- Settles O30: one `set8`, with F from the old value. -/
theorem incRegAddsOne : Obligations.IncRegAddsOne := by
  intro s r
  exact ⟨_, exec_incReg r s, (State.get8_withF _ _ r).trans (s.get8_set8_same r _),
    ⟨incFlags_z _ _, incFlags_n _ _, incFlags_h _ _, incFlags_c _ _, incFlags_low _ _ _⟩,
    (s.keepsRegs8_set8 r _).withF _, s.set8_sp r _, s.set8_pc r _, (s.keepsSystem_set8 r _).withF _,
    (s.keepsMemory_set8 r _).withF _, s.set8_busLog r _⟩

/-- Settles O31: one `set8`, with F from the old value. -/
theorem decRegSubtractsOne : Obligations.DecRegSubtractsOne := by
  intro s r
  exact ⟨_, exec_decReg r s, (State.get8_withF _ _ r).trans (s.get8_set8_same r _),
    ⟨decFlags_z _ _, decFlags_n _ _, decFlags_h _ _, decFlags_c _ _, decFlags_low _ _ _⟩,
    (s.keepsRegs8_set8 r _).withF _, s.set8_sp r _, s.set8_pc r _, (s.keepsSystem_set8 r _).withF _,
    (s.keepsMemory_set8 r _).withF _, s.set8_busLog r _⟩

/-- Settles O32: F is written with the value it has, which `set8` left alone. -/
theorem incDecWithoutFlags : Obligations.IncDecWithoutFlags := by
  intro s r
  have sameF : ∀ v, { s.set8 r v with f := s.f } = s.set8 r v := by
    intro v
    cases r <;> rfl
  exact ⟨sameF _, sameF _, rfl, rfl⟩

/-- Settles O20: either premise rules out R133's case. -/
theorem haltSetsOnlyHalted : Obligations.HaltSetsOnlyHalted := by
  intro s fine
  refine exec_halt_of_not_haltBugCase fun bug => ?_
  obtain ⟨masked, pending⟩ := s.haltBugCase_iff.mp bug
  rcases fine with enabled | nothing
  · rw [masked] at enabled; cases enabled
  · exact pending nothing

/-- Settles O21: the premises are R133's case. -/
theorem haltBugIsRefused : Obligations.HaltBugIsRefused :=
  fun s masked pending => exec_halt_of_haltBugCase (s.haltBugCase_iff.mpr ⟨masked, pending⟩)

end Sys2Proof.Machine
end

section
/-! What every instruction writes and what it leaves: PC, IME and `halted`, SP, F, the 8-bit registers, and memory with the
platform's history (10_state.md R28; 20_memory.md R50, R53). Each fact is one case analysis over the instructions. -/

namespace Sys2Proof.Machine

/-! ## The two instructions with a condition -/

/-- A JP of any form leaves a jump, to where PC stands already when its condition fails. -/
theorem exec_jp {i : Instr} {s t : State} (jp : i.mnemonic = .jp) (run : exec i s = .next t) : ∃ w, t = s.jump w := by
  cases i with
  | jpImm a => cases run; exact ⟨a, rfl⟩
  | jpHL => cases run; exact ⟨_, rfl⟩
  | jpCond cc a =>
    cases holds : s.cond cc with
    | true => rw [exec_jpCond_of_cond holds] at run; cases run; exact ⟨a, rfl⟩
    | false => rw [exec_jpCond_of_not_cond holds] at run; cases run; exact ⟨s.pc, rfl⟩
  | _ => cases jp

/-- A HALT that answers a next state sets `halted`. -/
theorem next_of_halt {s t : State} (run : exec .halt s = .next t) : t = { s with halted := true } := by
  by_cases bug : s.haltBugCase = true
  · rw [exec_halt_of_haltBugCase bug] at run; cases run
  · rw [exec_halt_of_not_haltBugCase bug] at run; cases run; rfl

/-! ## Single registers -/

section
variable {i : Instr} {s t : State} (run : exec i s = .next t)
include run

theorem exec_pc (other : i.mnemonic ≠ .jp) : t.pc = s.pc := by
  cases i with
  | jpImm | jpCond | jpHL => exact absurd rfl other
  | halt => rw [next_of_halt run]
  | ldRegReg | ldRegImm | ldRegIndHL | incReg | decReg => cases run; exact State.set8_pc _ _ _
  | ldPairImm | incPair | decPair => cases run; exact State.set16_pc _ _ _
  | ldIndImmSP => cases run; exact State.write16_pc _ _ _
  | _ => cases run; rfl

theorem exec_ime (noDi : i ≠ .di) (noEi : i ≠ .ei) : t.ime = s.ime := by
  cases i with
  | di => exact absurd rfl noDi
  | ei => exact absurd rfl noEi
  | jpImm | jpCond | jpHL => obtain ⟨w, rfl⟩ := exec_jp rfl run; rfl
  | halt => rw [next_of_halt run]
  | ldRegReg | ldRegImm | ldRegIndHL | incReg | decReg => cases run; exact State.set8_ime _ _ _
  | ldPairImm | incPair | decPair => cases run; exact State.set16_ime _ _ _
  | ldIndImmSP => cases run; exact State.write16_ime _ _ _
  | _ => cases run; rfl

theorem exec_halted (other : i ≠ .halt) : t.halted = s.halted := by
  cases i with
  | halt => exact absurd rfl other
  | jpImm | jpCond | jpHL => obtain ⟨w, rfl⟩ := exec_jp rfl run; rfl
  | ldRegReg | ldRegImm | ldRegIndHL | incReg | decReg => cases run; exact State.set8_halted _ _ _
  | ldPairImm | incPair | decPair => cases run; exact State.set16_halted _ _ _
  | ldIndImmSP => cases run; exact State.write16_halted _ _ _
  | _ => cases run; rfl

/-- A write of a pair leaves SP; the three forms over a 16-bit register write SP only where it is their operand. -/
theorem exec_sp (changed : t.sp ≠ s.sp) :
    (∃ w, i = .ldPairImm .sp w) ∨ i = .ldSPHL ∨ i = .incPair .sp ∨ i = .decPair .sp := by
  cases i with
  | ldSPHL => exact .inr (.inl rfl)
  | ldPairImm rr w =>
    cases run
    cases rr with
    | sp => exact .inl ⟨w, rfl⟩
    | bc | de | hl => exact absurd rfl changed
  | incPair rr =>
    cases run
    cases rr with
    | sp => exact .inr (.inr (.inl rfl))
    | bc | de | hl => exact absurd rfl changed
  | decPair rr =>
    cases run
    cases rr with
    | sp => exact .inr (.inr (.inr rfl))
    | bc | de | hl => exact absurd rfl changed
  | jpImm | jpCond | jpHL => obtain ⟨w, rfl⟩ := exec_jp rfl run; exact absurd rfl changed
  | halt => rw [next_of_halt run] at changed; exact absurd rfl changed
  | ldRegReg | ldRegImm | ldRegIndHL | incReg | decReg => cases run; exact absurd (State.set8_sp _ _ _) changed
  | ldIndImmSP => cases run; exact absurd (State.write16_sp _ _ _) changed
  | _ => cases run; exact absurd rfl changed

theorem exec_f (changed : t.f ≠ s.f) :
    i.mnemonic = .xor ∨ (∃ v, i = .ldHLSPImm v) ∨ (∃ r, i = .incReg r) ∨ ∃ r, i = .decReg r := by
  cases i with
  | xorReg | xorIndHL | xorImm => exact .inl rfl
  | ldHLSPImm v => exact .inr (.inl ⟨v, rfl⟩)
  | incReg r => exact .inr (.inr (.inl ⟨r, rfl⟩))
  | decReg r => exact .inr (.inr (.inr ⟨r, rfl⟩))
  | jpImm | jpCond | jpHL => obtain ⟨w, rfl⟩ := exec_jp rfl run; exact absurd rfl changed
  | halt => rw [next_of_halt run] at changed; exact absurd rfl changed
  | ldRegReg | ldRegImm | ldRegIndHL => cases run; exact absurd (State.set8_f _ _ _) changed
  | ldPairImm | incPair | decPair => cases run; exact absurd (State.set16_f _ _ _) changed
  | ldIndImmSP => cases run; exact absurd (State.write16_f _ _ _) changed
  | _ => cases run; exact absurd rfl changed

/-- F's low nibble: every flag computation keeps it. -/
theorem exec_f_low : t.f &&& 15#8 = s.f &&& 15#8 := by
  by_cases changed : t.f = s.f
  · rw [changed]
  · rcases exec_f run changed with xor | ⟨v, rfl⟩ | ⟨r, rfl⟩ | ⟨r, rfl⟩
    · cases i with
      | xorReg | xorIndHL | xorImm => cases run; exact xorFlags_low _ _
      | _ => cases xor
    · cases run; exact spImmFlags_low _ _ _
    · cases run; exact incFlags_low _ _ _
    · cases run; exact decFlags_low _ _ _

end

/-! ## The 8-bit registers -/

theorem State.keepsRegs8_set16 (s : State) (rr : Reg16) (w : Word) : KeepsRegs8 rr.halves s (s.set16 rr w) := by
  intro r out
  cases rr with
  | bc | de | hl =>
    simp only [Reg16.halves, List.mem_cons, List.not_mem_nil, or_false, not_or] at out
    obtain ⟨high, low⟩ := out
    exact (State.get8_set8_ne (s.set8 _ (hi w)) _ r (lo w) low).trans (s.get8_set8_ne _ r (hi w) high)
  | sp => cases r <;> rfl

theorem exec_keepsRegs8 {i : Instr} {s t : State} (run : exec i s = .next t) : KeepsRegs8 i.writtenRegs s t := by
  cases i with
  | jpImm | jpCond | jpHL => obtain ⟨w, rfl⟩ := exec_jp rfl run; exact KeepsRegs8.refl _ s
  | halt => rw [next_of_halt run]; exact KeepsRegs8.refl _ s
  | nop | di | ei | ldSPHL => cases run; exact KeepsRegs8.refl _ s
  | xorReg | xorIndHL | xorImm => cases run; exact s.keepsRegs8_afterXor _ _
  | ldRegReg | ldRegImm => cases run; exact s.keepsRegs8_set8 _ _
  | ldRegIndHL | ldAIndBC | ldAIndDE | ldAIndImm => cases run; exact s.keepsRegs8_afterLoad _ _ _
  | ldIndHLReg | ldIndHLImm | ldIndBCA | ldIndDEA | ldIndImmA => cases run; exact s.keepsRegs8_write8 _ _
  | ldPairImm | incPair | decPair => cases run; exact s.keepsRegs8_set16 _ _
  | ldIndHLIncA | ldIndHLDecA => cases run; exact (s.keepsRegs8_write8 _ _).set16_hl _
  | ldAIndHLInc | ldAIndHLDec => cases run; exact (s.keepsRegs8_afterLoad .a _ _).set16_hl _
  | ldIndImmSP => cases run; exact fun r _ => s.get8_write16 r _ _
  | ldHLSPImm => cases run; exact ((KeepsRegs8.refl [] s).withF _).set16_hl _
  | incReg | decReg => cases run; exact (s.keepsRegs8_set8 _ _).withF _

/-! ## Memory and the platform's history -/

/-- An instruction's data accesses, in order, leave memory and the platform's history as the instruction does. -/
theorem exec_bus {i : Instr} {s t : State} (run : exec i s = .next t) :
    t.mem = (s.replay (s.dataAccesses .loFirst i)).mem ∧ BusSaw (s.dataAccesses .loFirst i) s t := by
  cases i with
  | jpImm | jpCond | jpHL => obtain ⟨w, rfl⟩ := exec_jp rfl run; exact ⟨rfl, rfl⟩
  | halt => rw [next_of_halt run]; exact ⟨rfl, rfl⟩
  | ldRegReg | ldRegImm | ldRegIndHL | incReg | decReg =>
    cases run; exact ⟨State.set8_mem _ _ _, State.set8_busLog _ _ _⟩
  | ldPairImm | incPair | decPair => cases run; exact ⟨State.set16_mem _ _ _, State.set16_busLog _ _ _⟩
  | ldIndImmSP a => cases run; exact ⟨by rw [State.dataAccesses, State.replay_write16]; rfl, s.busSaw_write16 a s.sp⟩
  | _ => cases run; exact ⟨rfl, rfl⟩

theorem exec_wf {i : Instr} {s t : State} (run : exec i s = .next t) (h : s.mem.wf = true) : t.mem.wf = true := by
  rw [(exec_bus run).1]
  exact State.wf_replay h _

/-! ## The data accesses -/

/-- The order of a word's bytes does not change which accesses are made. -/
theorem write16Accesses_perm (o o' : Config.WordAccessOrder) (a v : Word) :
    (write16Accesses o a v).Perm (write16Accesses o' a v) := by
  cases o <;> cases o'
  · exact .refl _
  · exact .swap _ _ _
  · exact .swap _ _ _
  · exact .refl _

theorem State.dataAccesses_perm (s : State) (o o' : Config.WordAccessOrder) (i : Instr) :
    (s.dataAccesses o i).Perm (s.dataAccesses o' i) := by
  cases i with
  | ldIndImmSP a => exact write16Accesses_perm _ _ a s.sp
  | _ => exact .refl _

/-- An instruction makes no access, one read, one write, or the two writes of a word. -/
theorem State.dataAccesses_cases (s : State) (o : Config.WordAccessOrder) (i : Instr) :
    s.dataAccesses o i = [] ∨ (∃ a, s.dataAccesses o i = [.read a]) ∨ (∃ a v, s.dataAccesses o i = [.write a v]) ∨
      ∃ o' a v, s.dataAccesses o i = write16Accesses o' a v := by
  cases i with
  | ldIndImmSP a => exact .inr (.inr (.inr ⟨_, a, s.sp, rfl⟩))
  | ldIndHLReg | ldIndHLImm | ldIndBCA | ldIndDEA | ldIndHLIncA | ldIndHLDecA | ldIndImmA =>
    exact .inr (.inr (.inl ⟨_, _, rfl⟩))
  | xorIndHL | ldRegIndHL | ldAIndBC | ldAIndDE | ldAIndHLInc | ldAIndHLDec | ldAIndImm => exact .inr (.inl ⟨_, rfl⟩)
  | _ => exact .inl rfl

/-- The two accesses of a 16-bit write are writes. -/
theorem eq_write_of_mem_write16Accesses {o : Config.WordAccessOrder} {a v : Word} {x : Config.BusEvent}
    (mem : x ∈ write16Accesses o a v) : ∃ b w, x = .write b w := by
  cases o with
  | loFirst | hiFirst => rcases List.mem_pair.mp mem with rfl | rfl <;> exact ⟨_, _, rfl⟩

/-- The accesses of an instruction are all reads or all writes, and at most two. -/
theorem State.dataAccesses_uniform (s : State) (o : Config.WordAccessOrder) (i : Instr) :
    ((∀ x ∈ s.dataAccesses o i, ∃ a, x = .read a) ∨ (∀ x ∈ s.dataAccesses o i, ∃ a v, x = .write a v)) ∧
      (s.dataAccesses o i).length ≤ 2 := by
  rcases s.dataAccesses_cases o i with none | ⟨a, one⟩ | ⟨a, v, one⟩ | ⟨o', a, v, two⟩
  · rw [none]; exact ⟨.inl fun _ mem => (List.not_mem_nil mem).elim, by decide⟩
  · rw [one]; exact ⟨.inl fun _ mem => ⟨a, List.mem_singleton.mp mem⟩, (by decide : 1 ≤ 2)⟩
  · rw [one]; exact ⟨.inr fun _ mem => ⟨a, v, List.mem_singleton.mp mem⟩, (by decide : 1 ≤ 2)⟩
  · rw [two]; exact ⟨.inr fun _ mem => eq_write_of_mem_write16Accesses mem, by cases o' <;> exact Nat.le_refl 2⟩

@[simp] theorem State.replay_onPlatform (s : State) (xs : List Config.BusEvent) (a : Word) :
    (s.replay xs).onPlatform a = s.onPlatform a := by
  rw [State.replay_eq]
  rfl

theorem State.read8_ram {s : State} {a : Word} (ram : s.onPlatform a = false) : s.read8 a = s.mem.read a.toNat :=
  if_neg (by simp [ram])

/-- Reads and writes at other addresses leave a byte of flat RAM alone. -/
theorem State.read8_replay {s : State} {a : Word} (ram : s.onPlatform a = false) {xs : List Config.BusEvent}
    (others : ∀ x ∈ xs, (∃ b, x = .read b) ∨ ∃ b v, x = .write b v ∧ a ≠ b) : (s.replay xs).read8 a = s.read8 a := by
  induction xs generalizing s with
  | nil => rfl
  | cons x xs ih =>
    obtain ⟨first, rest⟩ := List.forall_mem_cons.mp others
    have later : ((s.access x).replay xs).read8 a = (s.access x).read8 a :=
      ih ((s.access_onPlatform x a).trans ram) rest
    rcases first with ⟨b, rfl⟩ | ⟨b, v, rfl, ne⟩
    · exact later.trans (State.read8_afterRead8 ram b)
    · exact later.trans (State.read8_write8_ne ram b v ne)

/-- A byte of flat RAM that an instruction makes no write to is as before. -/
theorem exec_read8 {i : Instr} {s t : State} (run : exec i s = .next t) {a : Word} (ram : s.onPlatform a = false)
    {o : Config.WordAccessOrder} (unwritten : ∀ v, .write a v ∉ s.dataAccesses o i) : t.read8 a = s.read8 a := by
  obtain ⟨-, -, -, samePlatform, -⟩ := exec_kept run
  have ramAfter : t.onPlatform a = false := by rw [State.onPlatform, samePlatform]; exact ram
  have others : ∀ x ∈ s.dataAccesses .loFirst i, (∃ b, x = .read b) ∨ ∃ b v, x = .write b v ∧ a ≠ b := by
    intro x mem
    rcases (s.dataAccesses_uniform .loFirst i).1 with reads | writes
    · exact .inl (reads x mem)
    · obtain ⟨b, v, rfl⟩ := writes x mem
      refine .inr ⟨b, v, rfl, fun same => ?_⟩
      subst same
      exact unwritten v ((s.dataAccesses_perm .loFirst o i).mem_iff.mp mem)
  calc t.read8 a
    _ = t.mem.read a.toNat := State.read8_ram ramAfter
    _ = (s.replay (s.dataAccesses .loFirst i)).mem.read a.toNat := by rw [(exec_bus run).1]
    _ = (s.replay (s.dataAccesses .loFirst i)).read8 a := (State.read8_ram (by rwa [State.replay_onPlatform])).symm
    _ = s.read8 a := State.read8_replay ram others

/-! ## The obligations -/

/-- Settles O34, a case analysis for each register and one for the bus. -/
theorem eachRegisterHasItsWriters : Obligations.EachRegisterHasItsWriters := by
  intro i s t run
  obtain ⟨keptIF, keptIE, keptFatal, keptPlatform, keptEnv⟩ := exec_kept run
  obtain ⟨mem, busLog⟩ := exec_bus run
  refine ⟨keptIF, keptIE, keptFatal, keptPlatform, keptEnv, exec_keepsRegs8 run, ?pc, exec_sp run, exec_f run, ?ime, ?halted,
    mem, busLog⟩
  case pc => exact not_imp_comm.mp (exec_pc run)
  case ime =>
    intro changed
    by_contra neither
    obtain ⟨noDi, noEi⟩ := not_or.mp neither
    exact changed (exec_ime run noDi noEi)
  case halted => exact not_imp_comm.mp (exec_halted run)

/-- Settles O54, from the four shapes of an instruction's accesses. -/
theorem noInstructionReadsAndWritesData : Obligations.NoInstructionReadsAndWritesData := by
  intro o i s
  obtain ⟨uniform, few⟩ := s.dataAccesses_uniform o i
  exact ⟨uniform, few, fun _ _ run ram unwritten => exec_read8 run ram unwritten⟩

end Sys2Proof.Machine
end

section
/-! The interrupt controller: the selection of a source, the check that applies it, and what the environment latches
(60_exceptions.md R207 to R214). -/

namespace Sys2Proof.Machine

/-! ## The bits of IF -/

/-- A source's mask is its one bit. -/
theorem Source.getLsbD_mask (i : Source) (k : Nat) : i.mask.getLsbD k = decide (k = i.bit) := by
  have oneBit : i.mask = BitVec.twoPow 8 i.bit := by cases i <;> rfl
  have inByte : i.bit < 8 := by cases i <;> decide
  rw [oneBit, BitVec.getLsbD_twoPow, decide_eq_true inByte, Bool.true_and]
  exact decide_eq_decide.mpr eq_comm

/-- A dispatch clears its own bit. -/
theorem getLsbD_clear_mask (v : Byte) (i : Source) {k : Nat} (lt : k < 8) :
    (v &&& ~~~i.mask).getLsbD k = (v.getLsbD k && decide (k ≠ i.bit)) := by
  rw [BitVec.getLsbD_and, BitVec.getLsbD_not, decide_eq_true lt, Bool.true_and, Source.getLsbD_mask, decide_not]

/-- A request sets its own bit. -/
theorem getLsbD_set_mask (v : Byte) (i : Source) (k : Nat) :
    (v ||| i.mask).getLsbD k = (v.getLsbD k || decide (k = i.bit)) := by
  rw [BitVec.getLsbD_or, Source.getLsbD_mask]

theorem Source.bit_lt_five (i : Source) : i.bit < 5 := by cases i <;> decide

theorem Source.bit_injective {i j : Source} (same : i.bit = j.bit) : i = j := by
  revert same
  cases i <;> cases j <;> decide

/-! ## The least source -/

/-- Bits 0 to 4 are the serviceable ones (R208). -/
theorem getLsbD_serviceable (v w : Byte) {k : Nat} (lt : k < 5) : (serviceable v w).getLsbD k = (v &&& w).getLsbD k := by
  have inMask : (0x1F : Byte).getLsbD k = true := by interval_cases k <;> rfl
  rw [serviceable, BitVec.getLsbD_and, inMask, Bool.and_true]

/-- No bit below the selected one is set. -/
theorem getLsbD_below_leastSource {v : Byte} {i : Source} (least : leastSource v = some i) {j : Nat} (below : j < i.bit) :
    v.getLsbD j = false := by
  unfold leastSource at least
  split_ifs at least with b0 b1 b2 b3 b4 <;> cases least <;> simp only [Source.bit] at below <;>
    interval_cases j <;> exact Bool.eq_false_iff.mpr ‹_›

/-- The lowest set bit is selected. -/
theorem leastSource_of_lowest {v : Byte} {i : Source} (set : v.getLsbD i.bit = true)
    (below : ∀ k : Source, k.bit < i.bit → v.getLsbD k.bit = false) : leastSource v = some i := by
  cases found : leastSource v with
  | some j =>
    rcases Nat.lt_trichotomy i.bit j.bit with lt | same | lt
    · rw [getLsbD_below_leastSource found lt] at set; cases set
    · rw [Source.bit_injective same]
    · have := getLsbD_of_leastSource found
      rw [below j lt] at this; cases this
  | none =>
    unfold leastSource at found
    split_ifs at found with b0 b1 b2 b3 b4
    cases i <;> contradiction

/-- The lowest source both pending and enabled is selected (R210). -/
theorem leastSource_serviceable_of_lowest {v w : Byte} {i : Source} (set : (v &&& w).getLsbD i.bit = true)
    (below : ∀ k : Source, k.bit < i.bit → (v &&& w).getLsbD k.bit = false) : leastSource (serviceable v w) = some i := by
  refine leastSource_of_lowest ?_ fun k lt => ?_
  · rwa [getLsbD_serviceable v w i.bit_lt_five]
  · rw [getLsbD_serviceable v w k.bit_lt_five, below k lt]

/-! ## The selection -/

/-- What `select` answers for a source (R211). -/
def Source.selection (i : Source) (ifReg : Byte) : Selection :=
  { source := i, newIF := ifReg &&& ~~~i.mask, newIME := false, vector := i.vector }

/-- Everything `select` can answer. -/
theorem select_cases (v w : Byte) (ime : Bool) :
    ((serviceable v w = 0#8 ∨ ime = false) ∧ select v w ime = none) ∨
    (serviceable v w ≠ 0#8 ∧ ime = true ∧
      ∃ i, leastSource (serviceable v w) = some i ∧ select v w ime = some (i.selection v)) := by
  by_cases closed : serviceable v w = 0#8 ∨ ime = false
  · exact .inl ⟨closed, if_pos (by simpa using closed)⟩
  · obtain ⟨pending, notMasked⟩ := not_or.mp closed
    obtain ⟨i, least⟩ := serviceable_leastSource pending
    refine .inr ⟨pending, by simpa using notMasked, i, least, ?_⟩
    rw [select, if_neg (by simpa using closed), least, Option.map_some]
    cases i <;> rfl

/-! ## The check -/

/-- With IME false a check dispatches nothing (R212). -/
theorem State.check_answer_of_not_ime {s : State} (masked : s.ime = false) : s.check.2 = none := by
  rcases s.check_cases with ⟨_, c⟩ | ⟨_, _, c⟩ | ⟨_, enabled, _⟩
  · rw [c]
  · rw [c]
  · rw [masked] at enabled; cases enabled

/-- With IME true a check answers and dispatches the least serviceable source. -/
theorem State.check_eq_of_ime {s : State} {i : Source} (enabled : s.ime = true)
    (least : leastSource (serviceable s.ifReg s.ieReg) = some i) : s.check = (s.dispatch i, some i) := by
  rcases s.check_cases with ⟨zero, _⟩ | ⟨_, masked, _⟩ | ⟨_, _, j, leastJ, c⟩
  · rw [zero] at least; cases least
  · rw [enabled] at masked; cases masked
  · rw [least] at leastJ; cases leastJ; exact c

theorem State.check_of_not_serviceable {s : State} (nothing : ¬ s.HasServiceable) : s.check = (s, none) :=
  if_pos (not_not.mp nothing)

@[simp] theorem State.get8_dispatch (s : State) (i : Source) (r : Reg8) : (s.dispatch i).get8 r = s.get8 r := by
  cases r <;> simp [State.get8]

/-! ## What a tick does to IE -/

/-- No operation of the core writes IE (10_state.md R23). -/
theorem step_ieReg {s t : State} (idle : s.env = []) (stepped : step s = .next t) : t.ieReg = s.ieReg := by
  rcases step_cases stepped with ⟨-, ⟨-, rfl⟩ | ⟨-, i, s2, -, run, rfl⟩ | ⟨-, o, cb, -, rfl⟩⟩
  · rw [State.finishTick_idle idle, State.check_ieReg]
  · obtain ⟨-, keptIE, -, -, keptEnv⟩ := exec_kept run
    rw [State.finishTick_idle (keptEnv.trans idle), State.check_ieReg, keptIE]
    rfl
  · rfl

/-! ## The obligations -/

/-- Settles O37, from the two answers of `select` and the bits of the least source. -/
theorem selectPicksTheLeastSource : Obligations.SelectPicksTheLeastSource := by
  intro ifReg ieReg ime
  rcases select_cases ifReg ieReg ime with ⟨closed, answer⟩ | ⟨pending, enabled, i, least, answer⟩
  · exact ⟨iff_of_true answer closed, fun sel found => by rw [answer] at found; cases found⟩
  · refine ⟨iff_of_false (by rw [answer]; exact Option.some_ne_none _) ?_, fun sel found => ?_⟩
    · exact not_or.mpr ⟨pending, by rw [enabled]; decide⟩
    · rw [answer] at found
      cases found
      refine ⟨?_, fun j below => ?_, fun k lt => getLsbD_clear_mask ifReg i lt, rfl, ?_⟩
      · exact (getLsbD_serviceable _ _ i.bit_lt_five).symm.trans (getLsbD_of_leastSource least)
      · exact (getLsbD_serviceable _ _ (Nat.lt_trans below i.bit_lt_five)).symm.trans (getLsbD_below_leastSource least below)
      · cases i <;> rfl

/-- Settles O38: the check and the selection branch on the same two conditions. -/
theorem checkAppliesTheSelection : Obligations.CheckAppliesTheSelection := by
  intro s
  rcases select_cases s.ifReg s.ieReg s.ime with ⟨closed, answer⟩ | ⟨_, enabled, i, least, answer⟩
  · rw [answer]
    by_cases nothing : serviceable s.ifReg s.ieReg = 0#8
    · rw [State.check_of_not_serviceable (not_not.mpr nothing), decide_eq_true (by exact nothing), Bool.and_true]
    · rcases s.check_cases with ⟨zero, _⟩ | ⟨_, _, c⟩ | ⟨_, enabled, _⟩
      · exact absurd zero nothing
      · rw [c, decide_eq_false (by exact nothing), Bool.and_false]
      · rw [closed.resolve_left nothing] at enabled; cases enabled
  · rw [answer, State.check_eq_of_ime enabled least]
    rfl

/-- Settles O39: a dispatch is a push with PC, IF, IME and `halted` overwritten. -/
theorem dispatchIsTheTrapEntry : Obligations.DispatchIsTheTrapEntry := by
  intro s i h
  have vector : i.vector.toNat = 0x0040 + 8 * i.bit := by cases i <;> rfl
  exact ⟨s.dispatch_sp i, State.stored_dispatch_lo h i, State.stored_dispatch_hi h i, s.busSaw_push16 s.pc, vector,
    fun k lt => getLsbD_clear_mask s.ifReg i lt, s.dispatch_ime i, s.dispatch_halted i, s.keepsMemory_dispatch i,
    fun r _ => s.get8_dispatch i r, s.dispatch_f i, s.dispatch_ieReg i, s.dispatch_fatal i, s.dispatch_platform i,
    s.dispatch_env i⟩

/-- Settles O40: the first dispatch clears IME and its own bit, which makes the next source the lowest one. -/
theorem oneSourcePerCheckLowestFirst : Obligations.OneSourcePerCheckLowestFirst := by
  intro s i enabled set below
  have first := State.check_eq_of_ime enabled (leastSource_serviceable_of_lowest set below)
  rw [first]
  refine ⟨rfl, s.dispatch_pc i, s.dispatch_ifReg i, State.check_answer_of_not_ime (s.dispatch_ime i), ?_⟩
  intro j later setJ between
  have bits : ∀ k : Source, (s.ifReg &&& ~~~i.mask &&& s.ieReg).getLsbD k.bit =
      ((s.ifReg &&& s.ieReg).getLsbD k.bit && decide (k.bit ≠ i.bit)) := by
    intro k
    rw [BitVec.getLsbD_and, getLsbD_clear_mask _ _ (Nat.lt_trans k.bit_lt_five (by decide)), BitVec.getLsbD_and,
      Bool.and_right_comm]
  have least : leastSource (serviceable (s.dispatch i).ifReg (s.dispatch i).ieReg) = some j := by
    rw [State.dispatch_ifReg, State.dispatch_ieReg]
    refine leastSource_serviceable_of_lowest ?_ fun k lt => ?_
    · rw [bits, setJ, decide_eq_true (by omega), Bool.and_true]
    · rw [bits]
      rcases Nat.lt_trichotomy k.bit i.bit with low | same | high
      · rw [below k low, Bool.false_and]
      · rw [decide_eq_false (not_not.mpr same), Bool.and_false]
      · rw [between k high lt, Bool.false_and]
  rw [State.check_eq_of_ime (s := { s.dispatch i with ime := true }) rfl least]
  exact ⟨rfl, State.dispatch_pc _ j, State.dispatch_ifReg _ j⟩

/-- Settles O41, from everything a check can do. -/
theorem wakeUpIgnoresIME : Obligations.WakeUpIgnoresIME := by
  intro s
  refine ⟨fun pending => ?wakes, fun pending masked => ?masked, fun nothing => ?nothing⟩
  case nothing => rw [State.check_of_not_serviceable nothing]
  case wakes =>
    rcases s.check_cases with ⟨zero, _⟩ | ⟨_, _, c⟩ | ⟨_, _, i, _, c⟩
    · exact absurd zero pending
    · rw [c]
    · rw [c]; exact s.dispatch_halted i
  case masked =>
    rcases s.check_cases with ⟨zero, _⟩ | ⟨_, _, c⟩ | ⟨_, enabled, _⟩
    · exact absurd zero pending
    · rw [c]
    · rw [masked] at enabled; cases enabled

/-- Settles O43: a request is an OR with one bit, and a tick leaves IF or clears the bit of the source it dispatched. -/
theorem requestsAreLatchedByTheEnvironmentAlone : Obligations.RequestsAreLatchedByTheEnvironmentAlone := by
  refine ⟨fun s i => ?request, fun s t idle stepped => ⟨step_ieReg idle stepped, ?tick⟩⟩
  case request =>
    refine ⟨?set, fun k ne => ?others, fun already => ?again, rfl⟩
    case set => exact (getLsbD_set_mask _ i _).trans (by simp)
    case others => exact (getLsbD_set_mask _ i k).trans (by simp [ne])
    case again =>
      have same : s.ifReg ||| i.mask = s.ifReg := by
        refine BitVec.eq_of_getLsbD_eq fun k _ => ?_
        rw [getLsbD_set_mask]
        by_cases own : k = i.bit
        · rw [own, already, Bool.true_or]
        · rw [decide_eq_false own, Bool.or_false]
      rw [State.envMove, same]
  case tick =>
    rcases onlyDispatchClearsARequest s t idle stepped with same | ⟨i, pending, enabled, cleared, pc, ime, halted⟩
    · rw [same]
      exact ⟨BitVec.and_not_self _, fun k set unset => by rw [set] at unset; cases unset⟩
    · rw [cleared]
      refine ⟨?_, fun k set unset => ⟨i, ?_⟩⟩
      · rw [BitVec.and_assoc, BitVec.and_comm (~~~i.mask), ← BitVec.and_assoc, BitVec.and_not_self]
        exact BitVec.zero_and
      · have own : k = i.bit := by
          rw [getLsbD_clear_mask _ i (BitVec.lt_of_getLsbD set), set, Bool.true_and] at unset
          exact not_not.mp (of_decide_eq_false unset)
        exact ⟨own, by rw [own, enabled], pc, ime, halted⟩

end Sys2Proof.Machine
end

section
/-! The tick: what it makes of the bytes at PC, where it stops, and what every tick keeps (60_exceptions.md R200 to R205, R220;
30_encoding.md R77 to R79; 70_reset_and_hazards.md R252). -/

namespace Sys2Proof.Machine

/-! ## How an instruction can end -/

/-- An instruction answers a next state, but for HALT in R133's case. -/
theorem exec_outcome (i : Instr) (s : State) :
    (∃ t, exec i s = .next t) ∨ (i = .halt ∧ s.haltBugCase = true ∧ exec i s = .refused .haltBug) := by
  cases i with
  | halt =>
    by_cases bug : s.haltBugCase = true
    · exact .inr ⟨rfl, bug, exec_halt_of_haltBugCase bug⟩
    · exact .inl ⟨_, exec_halt_of_not_haltBugCase bug⟩
  | _ => exact .inl ⟨_, rfl⟩

/-! ## Bytes without a row, as fetched -/

section
variable {s : State}

/-- After 0xCB the second byte is fetched, and it has no row. -/
theorem State.fetch_of_cb (cb : s.read8 s.pc = cbPrefixByte) :
    decode s.bytesAtPC = .reject (.noRow ((s.afterRead8 s.pc).read8 (s.pc + 1)) true) ∧
      s.fetchInstr = .fatal (.decodeError ((s.afterRead8 s.pc).read8 (s.pc + 1)) true)
        { (s.afterRead8 s.pc).afterRead8 (s.pc + 1) with pc := s.pc + 2 } := by
  have count : bytesAfter (s.read8 s.pc) = 1 := if_pos cb
  constructor
  · rw [State.bytesAtPC, count, cb]
    exact decode_cb _ []
  · rw [State.fetchInstr, State.fetch8_eq, if_pos cb, ← add_one_add_one]
    rfl

/-- Of a first byte other than 0xCB without a row only that byte is fetched. -/
theorem State.fetch_of_noRow (noPrefix : s.read8 s.pc ≠ cbPrefixByte) {o : Byte} {cb : Bool}
    (dec : decode s.bytesAtPC = .reject (.noRow o cb)) :
    o = s.read8 s.pc ∧ cb = false ∧
      s.fetchInstr = .fatal (.decodeError (s.read8 s.pc) false) { s.afterRead8 s.pc with pc := s.pc + 1 } := by
  rw [State.bytesAtPC, decode, if_neg noPrefix, decodeOpcode] at dec
  cases l : lookup (s.read8 s.pc) false with
  | some row => rw [l] at dec; exact absurd dec (row.complete_ne_noRow _ o cb)
  | none =>
    rw [l] at dec
    cases dec
    refine ⟨rfl, rfl, ?_⟩
    rw [State.fetchInstr, State.fetch8_eq, if_neg noPrefix, l]

end

/-! ## A step of a running core that is not halted -/

section
variable {s s1 : State} (alive : s.fatal = none) (awake : s.halted = false)
include alive awake

/-- A fetch that ends in a fatal error ends the tick, without a check. -/
theorem step_of_fetch_fatal {f : Fault} (fetched : s.fetchInstr = .fatal f s1) : step s = .next (s1.raiseFatal f) := by
  rw [step, State.tick, alive, awake, State.instruction, fetched]
  rfl

theorem step_of_refused {i : Instr} {r : Refusal} (fetched : s.fetchInstr = .instr i s1) (run : exec i s1 = .refused r) :
    step s = .refused r := by
  rw [step, State.tick, alive, awake, State.instruction, fetched]
  simp only [run]
  rfl

/-- An instruction fetched that answers a next state is followed by the rest of the tick. -/
theorem step_of_exec {i : Instr} {t : State} (fetched : s.fetchInstr = .instr i s.afterFetch)
    (run : exec i s.afterFetch = .next t) : step s = .next t.finishTick := by
  obtain ⟨-, -, keptFatal, -, -⟩ := exec_kept run
  exact step_of_fetchInstr alive awake fetched run (keptFatal.trans alive)

end

theorem step_of_fatal {s : State} {f : Fault} (dead : s.fatal = some f) : step s = .fault f := by
  rw [step, State.tick, dead]

/-- Everything a step can answer: the recorded fault, a next state, or HALT's refusal. -/
theorem step_outcome (s : State) :
    (∃ f, s.fatal = some f ∧ step s = .fault f) ∨ (s.fatal = none ∧ ∃ t, step s = .next t) ∨
      (s.fatal = none ∧ s.halted = false ∧ decode s.bytesAtPC = .ok .halt [] ∧ s.haltBugCase = true ∧
        step s = .refused .haltBug) := by
  cases alive : s.fatal with
  | some f => exact .inl ⟨f, rfl, step_of_fatal alive⟩
  | none =>
    cases awake : s.halted with
    | true => exact .inr (.inl ⟨rfl, _, step_of_halted alive awake⟩)
    | false =>
      rcases s.fetchInstr_cases with ⟨i, dec, fetched⟩ | ⟨o, cb, _, fetched⟩
      · rcases exec_outcome i s.afterFetch with ⟨t, run⟩ | ⟨rfl, bug, run⟩
        · exact .inr (.inl ⟨rfl, _, step_of_exec alive awake fetched run⟩)
        · exact .inr (.inr ⟨rfl, rfl, dec, bug, step_of_refused alive awake fetched run⟩)
      · exact .inr (.inl ⟨rfl, _, step_of_fetch_fatal alive awake fetched⟩)

/-- HALT is fetched exactly where its one byte stands at PC. -/
theorem State.decode_halt_iff (s : State) :
    decode s.bytesAtPC = .ok .halt [] ↔ decode [s.read8 s.pc] = .ok .halt [] := by
  have first : ∀ bs, decode (s.read8 s.pc :: bs) = .ok .halt [] → s.read8 s.pc = 0x76 := by
    intro bs dec
    exact (decode_ok dec).1.symm
  constructor
  · intro dec
    rw [first _ dec]
    rfl
  · intro dec
    rw [State.bytesAtPC, first _ dec]
    rfl

/-- HALT in R133's case at PC stops a running core that is not halted. -/
theorem step_of_haltBug {s : State} (alive : s.fatal = none) (awake : s.halted = false)
    (dec : decode [s.read8 s.pc] = .ok .halt []) (bug : s.haltBugCase = true) : step s = .refused .haltBug := by
  have atPC := s.decode_halt_iff.mpr dec
  rcases s.fetchInstr_cases with ⟨i, decI, fetched⟩ | ⟨o, cb, reject, _⟩
  · rw [atPC] at decI
    cases decI
    exact step_of_refused alive awake fetched (exec_halt_of_haltBugCase bug)
  · rw [atPC] at reject
    cases reject

/-! ## The invariant -/

/-- The rest of a tick keeps the invariant, whatever the environment does. -/
theorem State.inv_finishTick {s : State} (h : s.Inv) : s.finishTick.Inv := by
  obtain ⟨low, canonical⟩ := h
  have sameF : s.finishTick.f = s.f := by rw [State.finishTick, State.boundary_f, State.check_f, State.boundary_f]
  exact ⟨by rw [sameF, low], State.wf_boundary (State.wf_check (State.wf_boundary canonical))⟩

theorem exec_inv {i : Instr} {s t : State} (run : exec i s = .next t) (h : s.Inv) : t.Inv :=
  ⟨(exec_f_low run).trans h.1, exec_wf run h.2⟩

/-- A fetch leaves F and memory. -/
theorem State.inv_afterFetch {s : State} (h : s.Inv) : s.afterFetch.Inv := h

/-! ## Waiting -/

theorem step_of_waiting {s : State} (waiting : s.Waiting) : step s = .next s := by
  obtain ⟨alive, asleep, nothing, idle⟩ := waiting
  rw [step_of_halted alive asleep, State.finishTick_idle idle, State.check_of_not_serviceable nothing]

/-! ## The obligations -/

/-- Settles O52: fetch, instruction and the rest of the tick each keep the invariant. -/
theorem everyStepKeepsTheInvariant : Obligations.EveryStepKeepsTheInvariant := by
  intro s t h stepped
  rcases step_cases stepped with ⟨-, ⟨-, rfl⟩ | ⟨-, i, s2, -, run, rfl⟩ | ⟨-, o, cb, -, rfl⟩⟩
  · exact State.inv_finishTick h
  · exact State.inv_finishTick (exec_inv run (State.inv_afterFetch h))
  · exact State.inv_afterFetch h

/-- Settles O45: the bytes are the instruction's encoding, so PC past them is PC past it. -/
theorem stepRunsTheDecodedInstruction : Obligations.StepRunsTheDecodedInstruction := by
  intro s i rest alive awake dec
  rcases s.fetchInstr_cases with ⟨j, decJ, fetched⟩ | ⟨o, cb, reject, _⟩
  · rw [decJ] at dec
    cases dec
    have count : s.bytesAtPC.length = i.length := by
      rw [decodedBytesAreTheEncoding _ _ _ decJ, List.append_nil, Instr.length]
    refine ⟨rfl, ?_⟩
    rw [← count]
    change step s = match exec i s.afterFetch with
      | .next t => .next t.finishTick
      | .fault f => .fault f
      | .refused r => .refused r
    rcases exec_outcome i s.afterFetch with ⟨t, run⟩ | ⟨-, -, run⟩
    · rw [run]; exact step_of_exec alive awake fetched run
    · rw [run]; exact step_of_refused alive awake fetched run
  · rw [reject] at dec; cases dec

/-- Settles O46, for a first byte other than 0xCB and for 0xCB in turn. -/
theorem missingRowRecordsDecodeError : Obligations.MissingRowRecordsDecodeError := by
  intro s o alive awake
  by_cases cb : s.read8 s.pc = cbPrefixByte
  · obtain ⟨decCb, fetched⟩ := State.fetch_of_cb cb
    refine ⟨fun dec => ?_, fun dec => ?_⟩ <;> rw [decCb] at dec <;> cases dec
    exact ⟨cb, rfl, step_of_fetch_fatal alive awake fetched⟩
  · refine ⟨fun dec => ?_, fun dec => ?_⟩ <;> obtain ⟨rfl, flag, fetched⟩ := State.fetch_of_noRow cb dec
    · exact ⟨rfl, step_of_fetch_fatal alive awake fetched⟩
    · cases flag

/-- Settles O47: the first tick of a run from such a state would have to answer a next state. -/
theorem fatalErrorIsTerminal : Obligations.FatalErrorIsTerminal := by
  intro s f dead
  refine ⟨step_of_fatal dead, fun n t run => ?_⟩
  cases run with
  | refl => exact ⟨rfl, rfl⟩
  | step first _ => rw [step_of_fatal dead] at first; cases first

/-- Settles O48: only a fetch records a fatal error, and the rest of a tick keeps the status it finds. -/
theorem onlyDecodeErrorIsRaised : Obligations.OnlyDecodeErrorIsRaised := by
  intro s t stepped
  have kept : ∀ u : State, u.finishTick.fatal = u.fatal := by
    intro u
    rw [State.finishTick, State.boundary_fatal, State.check_fatal, State.boundary_fatal]
  obtain ⟨alive, ⟨-, rfl⟩ | ⟨-, i, s2, -, run, rfl⟩ | ⟨-, o, cb, -, rfl⟩⟩ := step_cases stepped
  · exact .inl ((kept s).trans alive)
  · obtain ⟨-, -, keptFatal, -, -⟩ := exec_kept run
    exact .inl ((kept s2).trans (keptFatal.trans alive))
  · exact .inr ⟨o, cb, State.raiseFatal_fatal _ _⟩

/-- Settles O49, from everything a step can answer. -/
theorem stepsStopOnlyWhereTheSpecStops : Obligations.StepsStopOnlyWhereTheSpecStops := by
  intro s
  rcases step_outcome s with ⟨f, dead, faulted⟩ | ⟨alive, t, ticked⟩ | ⟨alive, awake, dec, bug, refused⟩
  · rw [faulted, dead]
    refine ⟨fun g => ?_, fun r => ?_, fun alive => ?_⟩
    · simp
    · simp
    · cases alive
  · rw [ticked]
    refine ⟨fun f => by simp [alive], fun r => ⟨(by rintro ⟨⟩), ?_⟩, fun _ _ => ⟨t, rfl⟩⟩
    rintro ⟨-, -, awake, dec, masked, pending⟩
    rw [step_of_haltBug alive awake dec (s.haltBugCase_iff.mpr ⟨masked, pending⟩)] at ticked
    cases ticked
  · obtain ⟨masked, pending⟩ := s.haltBugCase_iff.mp bug
    have halt := s.decode_halt_iff.mp dec
    rw [refused]
    refine ⟨fun f => by simp [alive], fun r => ⟨fun same => ?_, fun ⟨named, _⟩ => by rw [named]⟩, fun _ otherwise => ?_⟩
    · cases same
      exact ⟨rfl, alive, awake, halt, masked, pending⟩
    · rcases otherwise with asleep | other | enabled | nothing
      · rw [awake] at asleep; cases asleep
      · exact absurd halt other
      · rw [masked] at enabled; cases enabled
      · exact absurd nothing pending

/-- Settles O51: the tick of a waiting core answers the state itself, so every run stays there. -/
theorem waitingCoreStaysAsItIs : Obligations.WaitingCoreStaysAsItIs := by
  intro s waiting n
  have again := step_of_waiting waiting
  refine ⟨?stays, fun t run => ?only⟩
  case stays =>
    induction n with
    | zero => exact .refl s
    | succ n ih => exact .step again ih
  case only =>
    refine run.keeps (P := (· = s)) (fun u v same stepped => ?_) rfl
    rw [same, again] at stepped
    cases stepped
    rfl

/-- Settles O55: the low nibble is the parameter's and memory the content given. -/
theorem resetGivesEveryFieldItsValue : Obligations.ResetGivesEveryFieldItsValue :=
  fun r _ platform s low =>
    ⟨fun canonical => ⟨low, State.wf_reset r canonical platform⟩, fun canonical => ⟨low, State.wf_reset r canonical s.platform⟩,
      rfl, rfl⟩

/-- Settles O56: the suggested F is 0xB0, and memory lists nothing. -/
theorem resetStateMeetsTheInvariant : Obligations.ResetStateMeetsTheInvariant := ⟨⟨rfl, rfl⟩, rfl, rfl⟩

end Sys2Proof.Machine
end

section
/-! The bus trace of a tick (20_memory.md R50, R51, R53): fetch, instruction and check each leave memory and the platform's history
as their accesses do, whichever order is taken for a word whose order cannot be seen. -/

namespace Sys2Proof.Machine

/-! ## States with the same bus -/

/-- Memory, the platform's history and its extent are the same: all that an access depends on or changes. -/
def SameBus (s t : State) : Prop := t.mem = s.mem ∧ t.busLog = s.busLog ∧ t.platform = s.platform

theorem SameBus.refl (s : State) : SameBus s s := ⟨rfl, rfl, rfl⟩

theorem SameBus.trans {s t u : State} (first : SameBus s t) (second : SameBus t u) : SameBus s u := by
  obtain ⟨mem, log, extent⟩ := first
  obtain ⟨mem', log', extent'⟩ := second
  exact ⟨mem'.trans mem, log'.trans log, extent'.trans extent⟩

theorem SameBus.access {s t : State} (same : SameBus s t) (x : Config.BusEvent) : SameBus (s.access x) (t.access x) := by
  obtain ⟨mem, log, extent⟩ := same
  have onPlatform : ∀ a, t.onPlatform a = s.onPlatform a := fun a => by rw [State.onPlatform, extent, State.onPlatform]
  refine ⟨?_, ?_, extent⟩
  · rw [State.access_mem, State.access_mem]
    cases x <;> simp only [State.memAfter, onPlatform, mem]
  · rw [State.access_busLog, State.access_busLog, State.logAfter, State.logAfter, onPlatform, log]

/-- The same accesses from the same bus leave the same bus. -/
theorem SameBus.replay {s t : State} (same : SameBus s t) (xs : List Config.BusEvent) :
    SameBus (s.replay xs) (t.replay xs) := by
  induction xs generalizing s t with
  | nil => exact same
  | cons x xs ih => exact ih (same.access x)

/-! ## Words in either unseen order -/

/-- Where the order given matters to `wordOrder`, it cannot be seen. -/
theorem State.ram_or_wordOrder_eq (s : State) (o : Config.WordAccessOrder) (a : Word) :
    (s.onPlatform a = false ∨ s.onPlatform (a + 1) = false) ∨ s.wordOrder o a = s.wordOrder .loFirst a := by
  by_cases both : s.onPlatform a = true ∧ s.onPlatform (a + 1) = true
  · obtain ⟨first, second⟩ := both
    exact .inr ((State.wordOrder_platform o first second).trans (State.wordOrder_platform .loFirst first second).symm)
  · exact .inl (by simpa only [Bool.not_eq_true] using not_and_or.mp both)

theorem State.write16In_wordOrder {s : State} (h : s.mem.wf = true) (o : Config.WordAccessOrder) (a v : Word) :
    s.write16In (s.wordOrder o a) a v = s.write16 a v := by
  rcases s.ram_or_wordOrder_eq o a with ram | same
  · exact (State.write16_eq_write16In ram _ h v).symm
  · rw [same, State.write16]

theorem State.afterRead16In_wordOrder (s : State) (o : Config.WordAccessOrder) (a : Word) :
    s.afterRead16In (s.wordOrder o a) a = s.afterRead16 a := by
  rcases s.ram_or_wordOrder_eq o a with ram | same
  · exact (State.afterRead16_eq_afterRead16In ram _).symm
  · rw [same, State.afterRead16]

/-! ## The three parts of a tick -/

/-- The immediate of a row is read alike for either `o`. -/
theorem State.replay_immediateAccesses (s : State) (o : Config.WordAccessOrder) (a : Word) (f : Format) :
    s.replay (immediateAccesses (s.wordOrder o a) a f) = s.replay (immediateAccesses (s.wordOrder .loFirst a) a f) := by
  cases f with
  | op | opD8 | opR8 => rfl
  | opD16 =>
    rw [immediateAccesses, immediateAccesses, State.replay_read16, State.replay_read16, State.afterRead16In_wordOrder,
      State.afterRead16In_wordOrder]

theorem State.replay_fetchAccesses (s : State) (o : Config.WordAccessOrder) :
    s.replay (s.fetchAccesses o) = s.replay (s.fetchAccesses .loFirst) := by
  rw [State.fetchAccesses, State.fetchAccesses]
  split
  · rfl
  · split
    · rfl
    · next row _ => exact State.replay_immediateAccesses (s.afterRead8 s.pc) o (s.pc + 1) row.format

/-- Reads leave memory. -/
theorem State.mem_replay_of_reads {s : State} {xs : List Config.BusEvent} (reads : ∀ x ∈ xs, ∃ a, x = .read a) :
    (s.replay xs).mem = s.mem := by
  induction xs generalizing s with
  | nil => rfl
  | cons x xs ih =>
    obtain ⟨⟨a, rfl⟩, rest⟩ := List.forall_mem_cons.mp reads
    exact ih (s := s.access (.read a)) rest

theorem eq_read_of_mem_immediateAccesses {o : Config.WordAccessOrder} {a : Word} {f : Format} {x : Config.BusEvent}
    (mem : x ∈ immediateAccesses o a f) : ∃ b, x = .read b := by
  cases f with
  | op => cases mem
  | opD8 | opR8 => exact ⟨a, List.mem_singleton.mp mem⟩
  | opD16 => cases o with
    | loFirst | hiFirst => rcases List.mem_pair.mp mem with rfl | rfl <;> exact ⟨_, rfl⟩

/-- A fetch only reads. -/
theorem State.eq_read_of_mem_fetchAccesses {s : State} {o : Config.WordAccessOrder} {x : Config.BusEvent}
    (mem : x ∈ s.fetchAccesses o) : ∃ a, x = .read a := by
  rw [State.fetchAccesses] at mem
  rcases List.mem_cons.mp mem with rfl | mem
  · exact ⟨_, rfl⟩
  · split at mem
    · exact ⟨_, List.mem_singleton.mp mem⟩
    · split at mem
      · cases mem
      · exact eq_read_of_mem_immediateAccesses mem

/-- The state an instruction executes in has the bus its fetch leaves. -/
theorem State.sameBus_afterFetch (s : State) (o : Config.WordAccessOrder) :
    SameBus (s.replay (s.fetchAccesses o)) s.afterFetch := by
  rw [State.replay_fetchAccesses]
  refine ⟨?_, rfl, by rw [State.replay_eq]; rfl⟩
  exact (State.mem_replay_of_reads (s := s) fun _ mem => State.eq_read_of_mem_fetchAccesses mem).symm

/-- An instruction leaves the bus its data accesses leave. -/
theorem exec_sameBus {i : Instr} {s t : State} (run : exec i s = .next t) (h : s.mem.wf = true)
    (o : Config.WordAccessOrder) : SameBus (s.replay (s.dataAccesses o i)) t := by
  have eitherOrder : s.replay (s.dataAccesses o i) = s.replay (s.dataAccesses .loFirst i) := by
    cases i with
    | ldIndImmSP a =>
      rw [State.dataAccesses, State.dataAccesses, State.replay_write16, State.replay_write16, State.write16In_wordOrder h,
        State.write16In_wordOrder h]
    | _ => rfl
  obtain ⟨-, -, -, extent, -⟩ := exec_kept run
  obtain ⟨mem, log⟩ := exec_bus run
  rw [eitherOrder]
  exact ⟨mem, log, by rw [extent, State.replay_eq]⟩

/-- A check leaves the bus its accesses leave: those of a push when it dispatches, and none otherwise. -/
theorem State.sameBus_check {s : State} (h : s.mem.wf = true) (o : Config.WordAccessOrder) :
    SameBus (s.replay (s.checkAccesses o)) s.check.1 := by
  rw [State.checkAccesses]
  rcases select_cases s.ifReg s.ieReg s.ime with ⟨closed, answer⟩ | ⟨_, enabled, i, least, answer⟩
  · rw [answer]
    rcases s.check_cases with ⟨_, c⟩ | ⟨_, _, c⟩ | ⟨pending, enabled, _⟩
    · rw [c]; exact SameBus.refl s
    · rw [c]; exact ⟨rfl, rfl, rfl⟩
    · rw [closed.resolve_left pending] at enabled; cases enabled
  · rw [answer, State.check_eq_of_ime enabled least]
    refine SameBus.trans (t := s.push16 s.pc) ?_ ⟨rfl, rfl, s.dispatch_platform i |>.trans (s.push16_platform s.pc).symm⟩
    simp only [State.replay_write16]
    rw [State.write16In_wordOrder h, State.push16_eq]
    exact ⟨rfl, rfl, rfl⟩

/-! ## The accesses of a tick, by its kind -/

section
variable {s : State} (alive : s.fatal = none) (o : Config.WordAccessOrder)
include alive

theorem State.tickAccesses_halted (asleep : s.halted = true) (idle : s.env = []) :
    s.tickAccesses o = s.checkAccesses o := by
  rw [State.tickAccesses, alive]
  simp only [asleep, if_true, State.boundary_idle idle]

theorem State.tickAccesses_fatal (awake : s.halted = false) {f : Fault} {s1 : State} (fetched : s.fetchInstr = .fatal f s1) :
    s.tickAccesses o = s.fetchAccesses o := by
  rw [State.tickAccesses, alive, awake, fetched]
  rfl

theorem State.tickAccesses_instr (awake : s.halted = false) {i : Instr} {s1 s2 : State} (fetched : s.fetchInstr = .instr i s1)
    (run : exec i s1 = .next s2) (idle : s2.env = []) :
    s.tickAccesses o = s.fetchAccesses o ++ s1.dataAccesses o i ++ s2.checkAccesses o := by
  rw [State.tickAccesses, alive, awake, fetched]
  simp [run, State.boundary_idle idle]

end

/-! ## The obligation -/

/-- Settles O53: the parts of the tick one after the other, each from the bus the one before leaves. -/
theorem busTraceAccountsForMemory : Obligations.BusTraceAccountsForMemory := by
  intro o s t idle canonical stepped
  have trace : SameBus (s.replay (s.tickAccesses o)) t := by
    obtain ⟨alive, ⟨asleep, rfl⟩ | ⟨awake, i, s2, fetched, run, rfl⟩ | ⟨awake, f, cb, fetched, rfl⟩⟩ := step_cases stepped
    · rw [State.tickAccesses_halted alive o asleep idle, State.finishTick_idle idle]
      exact State.sameBus_check canonical o
    · obtain ⟨-, -, -, -, keptEnv⟩ := exec_kept run
      have idle2 : s2.env = [] := keptEnv.trans idle
      rw [State.tickAccesses_instr alive o awake fetched run idle2, State.finishTick_idle idle2, State.replay_append,
        State.replay_append]
      have executed : SameBus ((s.replay (s.fetchAccesses o)).replay (s.afterFetch.dataAccesses o i)) s2 :=
        ((s.sameBus_afterFetch o).replay _).trans (exec_sameBus run canonical o)
      exact (executed.replay _).trans (State.sameBus_check (exec_wf run canonical) o)
    · rw [State.tickAccesses_fatal alive o awake fetched]
      exact s.sameBus_afterFetch o
  obtain ⟨mem, log, -⟩ := trace
  exact ⟨mem, log⟩

end Sys2Proof.Machine
end

section
/-! Descriptors (40_operands.md R100 to R108): the engine's handlers on the rows of the table, and on every descriptor at all. -/

namespace Sys2Proof.Machine

/-! ## The engine on a descriptor of the right shape -/

/-- With the shape right the engine is the mnemonic's handler. -/
theorem execDescriptor_of_shapeOk {d : Descriptor} {s : State} {run : List Operand → Host.Outcome State Fault Refusal}
    (handles : handler s d.mnemonic = some run) (ok : shapeOk d.mnemonic d.operands = true) :
    execDescriptor d s = run d.operands := by
  rw [execDescriptor, handles]
  exact if_pos ok

/-- With the shape wrong the engine records the error, whatever the mnemonic. -/
theorem execDescriptor_of_not_shapeOk {d : Descriptor} {s : State} (wrong : shapeOk d.mnemonic d.operands = false) :
    execDescriptor d s = shapeError s := by
  obtain ⟨run, handles⟩ : ∃ run, handler s d.mnemonic = some run := by cases d.mnemonic <;> exact ⟨_, rfl⟩
  rw [execDescriptor, handles]
  exact if_neg (by simp [wrong])

theorem shapeError_eq (s : State) : shapeError s = .next { s with fatal := some .operandShapeError } := rfl

/-- Every row's operands have the shape its mnemonic requires. -/
theorem shapeOk_descriptor (i : Instr) : shapeOk i.descriptor.mnemonic i.descriptor.operands = true := by cases i <;> rfl

/-! ## The handlers on the table's rows -/

section
variable (s : State)

theorem handleHalt_nil : handleHalt s [] = execHalt s := by
  by_cases bug : s.haltBugCase = true
  · exact (if_pos (s.haltBugCase_iff.mp bug)).trans (exec_halt_of_haltBugCase bug).symm
  · exact (if_neg (mt s.haltBugCase_iff.mpr bug)).trans (exec_halt_of_not_haltBugCase bug).symm

theorem handleJp_cond (cc : Cond) (a16 : Word) : handleJp s [opCond cc, opAddr a16] = execJpCond cc a16 s := by
  have resolved : s.resolve (opCond cc) none = .ok (.truth (s.cond cc), s) := rfl
  rw [handleJp, resolved, execJpCond]
  cases s.cond cc <;> rfl

/-- The handler's `if` on the result is R140's Z. -/
theorem handleXor_of_resolve {s1 : State} {o : Operand} {v : Byte} (resolved : s.resolve o (some 8) = .ok (.byte v, s1))
    (plain : ∀ u : State, u.postTags [o] = u) :
    handleXor s [o] = .next { s1 with a := s.a ^^^ v, f := xorFlags (s.a ^^^ v) s.f } := by
  rw [handleXor, resolved]
  simp only [plain, xorFlags, putFlag, beq_iff_eq]

/-- INC r and DEC r take F after the register is written, which leaves it. -/
theorem handleStep_reg8 (byteStep : Byte → Byte) (wordStep : Word → Word) (flags : Byte → Byte → Byte) (r : Reg8) :
    handleStep s byteStep wordStep flags [opReg8 r] =
      .next { s.set8 r (byteStep (s.get8 r)) with f := flags (s.get8 r) s.f } := by
  cases r <;> rfl

end

/-- Settles O35: the table's descriptors resolve to the values, addresses and destinations the rules name. -/
theorem resolverAgreesWithTheRules : Obligations.ResolverAgreesWithTheRules := by
  intro i s
  obtain ⟨run, handles⟩ : ∃ run, handler s i.descriptor.mnemonic = some run := by cases i <;> exact ⟨_, rfl⟩
  rw [execDescriptor_of_shapeOk handles (shapeOk_descriptor i)]
  cases i with
  | halt => cases handles; exact handleHalt_nil s
  | jpCond cc a16 => cases handles; exact handleJp_cond s cc a16
  | xorReg r => cases handles; exact handleXor_of_resolve s rfl fun _ => rfl
  | xorIndHL => cases handles; exact handleXor_of_resolve s rfl fun _ => rfl
  | xorImm d8 => cases handles; exact handleXor_of_resolve s rfl fun _ => rfl
  | incReg r | decReg r => cases handles; exact handleStep_reg8 s _ _ _ r
  | _ => cases handles; rfl

/-! ## What an operand is by its shape -/

theorem isTarget_iff (o : Operand) :
    o.isTarget = true ↔ o.deref = false ∧ ((∃ w, o.sym = .addr16 w) ∨ ∃ r, o.sym = .reg16 r) := by
  obtain ⟨sym, deref, _, _⟩ := o
  cases sym <;> cases deref <;> simp [Operand.isTarget]

theorem isReg_iff (o : Operand) :
    o.isReg = true ↔ o.deref = false ∧ ((∃ r, o.sym = .reg8 r) ∨ ∃ r, o.sym = .reg16 r) := by
  obtain ⟨sym, deref, _, _⟩ := o
  cases sym <;> cases deref <;> simp [Operand.isReg]

theorem isReg8_iff (o : Operand) : o.isReg8 = true ↔ o.deref = false ∧ ∃ r, o.sym = .reg8 r := by
  obtain ⟨sym, deref, _, _⟩ := o
  cases sym <;> cases deref <;> simp [Operand.isReg8]

theorem isImm8_iff (o : Operand) : o.isImm8 = true ↔ o.deref = false ∧ ∃ v, o.sym = .imm8 v := by
  obtain ⟨sym, deref, _, _⟩ := o
  cases sym <;> cases deref <;> simp [Operand.isImm8]

theorem isCond_iff (o : Operand) : o.isCond = true ↔ ∃ cc, o.sym = .cond cc := by
  obtain ⟨sym, _, _, _⟩ := o
  cases sym <;> simp [Operand.isCond]

/-- An operand that R102 (c) lets be dereferenced has an address. -/
theorem State.address_ne_none_of_derefOk (s : State) {o : Operand} (ok : o.derefOk = true) (deref : o.deref = true) :
    s.address o ≠ none := by
  obtain ⟨sym, d, _, _⟩ := o
  cases deref
  cases sym with
  | reg16 r => exact Option.some_ne_none _
  | addr16 v => exact Option.some_ne_none _
  | reg8 | imm8 | imm16 | cond => cases ok

/-! ## Resolving and writing back -/

/-- A value is as wide as the data moved. -/
def Value.Fits (W : Option Nat) : Value → Prop
  | .byte _ => W = some 8
  | .word _ => W = some 16
  | .truth _ => False

theorem State.symValue_fits (s : State) {o : Operand} (wide : o.width.isSome = true) : (s.symValue o.sym).Fits o.width := by
  rw [Operand.width] at wide ⊢
  cases sym : o.sym with
  | cond => rw [sym] at wide; cases wide
  | _ => rfl

theorem width_eq_or {o : Operand} (wide : o.width.isSome = true) : o.width = some 8 ∨ o.width = some 16 := by
  rw [Operand.width] at wide ⊢
  cases sym : o.sym with
  | cond => rw [sym] at wide; cases wide
  | reg8 | imm8 => exact .inl rfl
  | reg16 | imm16 | addr16 => exact .inr rfl

section
variable (s : State) {o : Operand} (W : Option Nat)

theorem State.resolve_plain (plain : o.deref = false) : s.resolve o W = .ok (s.symValue o.sym, s) :=
  if_neg (by simp [plain])

theorem State.resolve_of_no_address (deref : o.deref = true) (no : s.address o = none) :
    s.resolve o W = .error .operandShapeError := by
  unfold State.resolve
  rw [if_pos deref, no]

theorem State.writeBack_of_no_address (deref : o.deref = true) (no : s.address o = none) (v : Value) :
    s.writeBack o v W = .error .operandShapeError := by
  unfold State.writeBack
  rw [if_pos deref, no]

theorem State.resolve_byte_of_address {a : Word} (deref : o.deref = true) (at_ : s.address o = some a) :
    s.resolve o (some 8) = .ok (.byte (s.read8 a), s.afterRead8 a) := by
  unfold State.resolve
  rw [if_pos deref, at_]
  rfl

variable {W}

/-- A read at an address answers a value of the width asked for. -/
theorem State.resolve_of_address {a : Word} (deref : o.deref = true) (at_ : s.address o = some a)
    (width : W = some 8 ∨ W = some 16) :
    ∃ v s1, s.resolve o W = .ok (v, s1) ∧ v.Fits W ∧ s1.fatal = s.fatal := by
  rcases width with rfl | rfl
  · exact ⟨_, _, s.resolve_byte_of_address deref at_, rfl, rfl⟩
  · unfold State.resolve
    rw [if_pos deref, at_]
    exact ⟨_, _, rfl, rfl, s.afterRead16_fatal a⟩

theorem State.writeBack_of_address {a : Word} (deref : o.deref = true) (at_ : s.address o = some a) {v : Value}
    (fits : v.Fits W) : ∃ t, s.writeBack o v W = .ok t ∧ t.fatal = s.fatal := by
  unfold State.writeBack
  rw [if_pos deref, at_]
  cases v with
  | byte b => cases fits; exact ⟨_, rfl, rfl⟩
  | word w => cases fits; exact ⟨_, rfl, s.write16_fatal a w⟩
  | truth _ => exact fits.elim

theorem State.writeBack_of_isReg (reg : o.isReg = true) {v : Value} (fits : v.Fits o.width) :
    ∃ t, s.writeBack o v W = .ok t ∧ t.fatal = s.fatal := by
  obtain ⟨plain, ⟨r, sym⟩ | ⟨r, sym⟩⟩ := (isReg_iff o).mp reg <;>
    rw [Operand.width, sym] at fits <;> unfold State.writeBack <;> rw [if_neg (by simp [plain]), sym]
  · cases v with
    | byte b => exact ⟨_, rfl, s.set8_fatal r b⟩
    | word _ => cases fits
    | truth _ => exact fits.elim
  · cases v with
    | byte _ => cases fits
    | word w => exact ⟨_, rfl, s.set16_fatal r w⟩
    | truth _ => exact fits.elim

end

/-- The tags move HL alone. -/
@[simp] theorem State.postTags_fatal (s : State) (os : List Operand) : (s.postTags os).fatal = s.fatal := by
  have moved : ∀ (b : Bool) (u : State) (w : Word), (if b then u.set16 .hl w else u).fatal = u.fatal := by
    intro b u w
    cases b with
    | true => exact u.set16_fatal .hl w
    | false => rfl
  exact (moved _ _ _).trans (moved _ _ _)

/-! ## What a handler answers on operands of its shape -/

/-- Some operand is dereferenced and is no address. -/
def State.HasBadDeref (s : State) (os : List Operand) : Prop := ∃ o ∈ os, o.deref = true ∧ s.address o = none

/-- The answer is the shape error if some operand is dereferenced and is no address, and otherwise records no fatal error. -/
def State.Handled (s : State) (os : List Operand) (r : Host.Outcome State Fault Refusal) : Prop :=
  (s.HasBadDeref os ∧ r = shapeError s) ∨ (¬ s.HasBadDeref os ∧ ∀ t, r = .next t → t.fatal = s.fatal)

section
variable {s : State} {os : List Operand}

theorem State.Handled.of_next {t : State} (good : ∀ o ∈ os, o.deref = true → s.address o ≠ none)
    (kept : t.fatal = s.fatal) : s.Handled os (.next t) :=
  .inr ⟨fun ⟨o, mem, deref, no⟩ => good o mem deref no, fun u same => by cases same; exact kept⟩

theorem State.Handled.of_bad {r : Host.Outcome State Fault Refusal} {o : Operand} (mem : o ∈ os) (deref : o.deref = true)
    (no : s.address o = none) (error : r = shapeError s) : s.Handled os r :=
  .inl ⟨⟨o, mem, deref, no⟩, error⟩

theorem ne_none_of_plain {o : Operand} (plain : o.deref = false) : o.deref = true → s.address o ≠ none := by
  rw [plain]
  exact fun wrong => absurd wrong Bool.false_ne_true

theorem ne_none_of_address {o : Operand} {a : Word} (at_ : s.address o = some a) : o.deref = true → s.address o ≠ none := by
  rw [at_]
  exact fun _ => Option.some_ne_none a

theorem ne_none_of_pair {x y : Operand} (first : x.deref = true → s.address x ≠ none)
    (second : y.deref = true → s.address y ≠ none) : ∀ o ∈ [x, y], o.deref = true → s.address o ≠ none :=
  List.forall_mem_cons.mpr ⟨first, List.forall_mem_singleton.mpr second⟩

end

section
variable (s : State)

theorem handled_halt : s.Handled [] (handleHalt s []) := by
  rw [handleHalt_nil]
  refine .inr ⟨fun ⟨o, mem, _⟩ => List.not_mem_nil mem, fun t run => ?_⟩
  rw [next_of_halt run]

/-- A jump target resolves to its word. -/
theorem symValue_of_isTarget {t : Operand} (ok : t.isTarget = true) :
    t.deref = false ∧ ∃ w, s.symValue t.sym = .word w := by
  obtain ⟨plain, ⟨w, sym⟩ | ⟨r, sym⟩⟩ := (isTarget_iff t).mp ok <;> rw [sym] <;> exact ⟨plain, _, rfl⟩

theorem handled_jp {os : List Operand} (ok : shapeOk .jp os = true) : s.Handled os (handleJp s os) := by
  match os, ok with
  | [t], ok =>
    obtain ⟨plain, w, value⟩ := symValue_of_isTarget s ok
    rw [handleJp, State.resolve_plain s none plain, value]
    exact .of_next (List.forall_mem_singleton.mpr (ne_none_of_plain plain)) (State.postTags_fatal _ _)
  | [c, t], ok =>
    obtain ⟨cond, target⟩ := Bool.and_eq_true _ _ ▸ ok
    obtain ⟨cc, symC⟩ := (isCond_iff c).mp cond
    obtain ⟨plain, w, value⟩ := symValue_of_isTarget s target
    cases deref : c.deref with
    | true =>
      have no : s.address c = none := by rw [State.address, symC]
      refine .of_bad (List.mem_cons_self ..) deref no ?_
      rw [handleJp, State.resolve_of_no_address s none deref no]
    | false =>
      have truth : s.symValue c.sym = .truth (s.cond cc) := by rw [symC]; rfl
      rw [handleJp, State.resolve_plain s none deref, State.resolve_plain s none plain, value, truth]
      have good : ∀ o ∈ [c, t], o.deref = true → s.address o ≠ none :=
        ne_none_of_pair (ne_none_of_plain deref) (ne_none_of_plain plain)
      cases s.cond cc with
      | true => exact .of_next good (State.postTags_fatal _ _)
      | false => exact .of_next good (State.postTags_fatal _ _)

theorem handled_xor {os : List Operand} (ok : shapeOk .xor os = true) : s.Handled os (handleXor s os) := by
  match os, ok with
  | [o], ok =>
    have good : (o.deref = true → s.address o ≠ none) ∧
        ∃ v s1, s.resolve o (some 8) = .ok (.byte v, s1) ∧ s1.fatal = s.fatal := by
      rw [shapeOk, Bool.or_eq_true, Bool.or_eq_true, Bool.and_eq_true, beq_iff_eq] at ok
      rcases ok with (reg | imm) | ⟨deref, sym⟩
      · obtain ⟨plain, r, sym⟩ := (isReg8_iff o).mp reg
        exact ⟨ne_none_of_plain plain, _, s, by rw [State.resolve_plain s _ plain, sym]; rfl, rfl⟩
      · obtain ⟨plain, v, sym⟩ := (isImm8_iff o).mp imm
        exact ⟨ne_none_of_plain plain, _, s, by rw [State.resolve_plain s _ plain, sym]; rfl, rfl⟩
      · have at_ : s.address o = some s.hl := by rw [State.address, sym]
        exact ⟨ne_none_of_address at_, _, _, s.resolve_byte_of_address deref at_, rfl⟩
    obtain ⟨good, v, s1, resolved, kept⟩ := good
    rw [handleXor, resolved]
    exact .of_next (List.forall_mem_singleton.mpr good) ((State.postTags_fatal _ _).trans kept)

section
variable {dst src : Operand} (wide : (ldWidth dst src).isSome = true)
include wide

/-- A load: the source is read as wide as the destination register. -/
theorem handled_ld2_of_src_deref (reg : dst.isReg = true) (srcDeref : src.deref = true) :
    s.Handled [dst, src] (handleLd2 s dst src) := by
  obtain ⟨dstPlain, -⟩ := (isReg_iff dst).mp reg
  have width : ldWidth dst src = dst.width := by rw [ldWidth, if_neg (by simp [dstPlain]), if_pos srcDeref]
  rw [width] at wide
  cases at_ : s.address src with
  | none =>
    refine .of_bad (o := src) (by simp) srcDeref at_ ?_
    rw [handleLd2, State.resolve_of_no_address s _ srcDeref at_]
    rfl
  | some a =>
    obtain ⟨v, s1, resolved, fits, kept⟩ := s.resolve_of_address srcDeref at_ (width_eq_or wide)
    obtain ⟨s2, written, kept2⟩ := s1.writeBack_of_isReg (W := dst.width) reg fits
    rw [handleLd2, width, resolved]
    simp only [written]
    exact .of_next (ne_none_of_pair (ne_none_of_plain dstPlain) (ne_none_of_address at_))
      ((State.postTags_fatal _ _).trans (kept2.trans kept))

/-- A store: the destination is written as wide as the source. -/
theorem handled_ld2_of_dst_deref (dstDeref : dst.deref = true) (srcPlain : src.deref = false) :
    s.Handled [dst, src] (handleLd2 s dst src) := by
  have width : ldWidth dst src = src.width := if_pos dstDeref
  rw [width] at wide
  rw [handleLd2, State.resolve_plain s _ srcPlain, width]
  cases at_ : s.address dst with
  | none =>
    refine .of_bad (o := dst) (by simp) dstDeref at_ ?_
    simp only [State.writeBack_of_no_address s _ dstDeref at_]
    rfl
  | some a =>
    obtain ⟨t, written, kept⟩ := s.writeBack_of_address dstDeref at_ (s.symValue_fits wide)
    simp only [written]
    exact .of_next (ne_none_of_pair (ne_none_of_address at_) (ne_none_of_plain srcPlain))
      ((State.postTags_fatal _ _).trans kept)

/-- A move: both operands have the width moved. -/
theorem handled_ld2_of_plain (reg : dst.isReg = true) (srcPlain : src.deref = false) :
    s.Handled [dst, src] (handleLd2 s dst src) := by
  obtain ⟨dstPlain, -⟩ := (isReg_iff dst).mp reg
  have same : dst.width = src.width := by
    by_contra differ
    simp [ldWidth, dstPlain, srcPlain, differ] at wide
  have width : ldWidth dst src = src.width := by simp [ldWidth, dstPlain, srcPlain, same]
  rw [width] at wide
  obtain ⟨t, written, kept⟩ := s.writeBack_of_isReg (W := ldWidth dst src) reg (same ▸ s.symValue_fits wide)
  rw [handleLd2, State.resolve_plain s _ srcPlain]
  simp only [written]
  exact .of_next (ne_none_of_pair (ne_none_of_plain dstPlain) (ne_none_of_plain srcPlain))
    ((State.postTags_fatal _ _).trans kept)

end

/-- The two-operand LD, by which operand is dereferenced. -/
theorem handled_ld2 {dst src : Operand} (ok : ldShapeOk dst src = true) : s.Handled [dst, src] (handleLd2 s dst src) := by
  rw [ldShapeOk, Bool.and_eq_true, Bool.and_eq_true, Bool.and_eq_true, Bool.or_eq_true] at ok
  obtain ⟨⟨⟨dstShape, -⟩, notBoth⟩, wide⟩ := ok
  cases srcDeref : src.deref with
  | true =>
    have dstPlain : ¬ dst.deref = true := by simpa [srcDeref] using notBoth
    exact handled_ld2_of_src_deref s wide (dstShape.resolve_right dstPlain) srcDeref
  | false =>
    rcases dstShape with reg | dstDeref
    · exact handled_ld2_of_plain s wide reg srcDeref
    · exact handled_ld2_of_dst_deref s wide dstDeref srcDeref

theorem handled_ld {os : List Operand} (ok : shapeOk .ld os = true) : s.Handled os (handleLd s os) := by
  match os, ok with
  | [dst, src], ok => exact handled_ld2 s ok
  | [dst, base, off], ok =>
    rw [shapeOk, Bool.and_eq_true, Bool.and_eq_true, beq_iff_eq, beq_iff_eq] at ok
    obtain ⟨⟨rfl, rfl⟩, imm⟩ := ok
    obtain ⟨plain, v, sym⟩ := (isImm8_iff off).mp imm
    have resolved : s.resolve off none = .ok (.byte v, s) := by rw [State.resolve_plain s none plain, sym]; rfl
    rw [handleLd, handleLd3, resolved]
    have good := ne_none_of_pair (s := s) (x := opReg16 .sp) (ne_none_of_plain rfl) (ne_none_of_plain plain)
    exact .of_next (List.forall_mem_cons.mpr ⟨ne_none_of_plain rfl, good⟩) (State.postTags_fatal _ _)

theorem handled_step (byteStep : Byte → Byte) (wordStep : Word → Word) (flags : Byte → Byte → Byte) {r : Operand}
    (reg : r.isReg = true) : s.Handled [r] (handleStep s byteStep wordStep flags [r]) := by
  obtain ⟨plain, kind⟩ := (isReg_iff r).mp reg
  have good : ∀ o ∈ [r], o.deref = true → s.address o ≠ none :=
    List.forall_mem_singleton.mpr (ne_none_of_plain plain)
  rw [handleStep, State.resolve_plain s none plain]
  rcases kind with ⟨q, sym⟩ | ⟨q, sym⟩
  · obtain ⟨t, written, kept⟩ :=
      s.writeBack_of_isReg (W := none) reg (v := .byte (byteStep (s.get8 q))) (by rw [Operand.width, sym]; rfl)
    simp only [sym, State.symValue, written]
    exact .of_next good ((State.postTags_fatal _ _).trans kept)
  · obtain ⟨t, written, kept⟩ :=
      s.writeBack_of_isReg (W := none) reg (v := .word (wordStep (s.get16 q))) (by rw [Operand.width, sym]; rfl)
    simp only [sym, State.symValue, written]
    exact .of_next good ((State.postTags_fatal _ _).trans kept)

/-- Every handler, on operands of its shape. -/
theorem handled_execDescriptor {d : Descriptor} (ok : shapeOk d.mnemonic d.operands = true) :
    s.Handled d.operands (execDescriptor d s) := by
  obtain ⟨m, os, cb, cost⟩ := d
  cases m with
  | nop | di | ei =>
    rw [execDescriptor_of_shapeOk rfl ok]
    match os, ok with
    | [], _ => exact .of_next (by simp) rfl
  | halt =>
    rw [execDescriptor_of_shapeOk rfl ok]
    match os, ok with
    | [], _ => exact handled_halt s
  | jp => rw [execDescriptor_of_shapeOk rfl ok]; exact handled_jp s ok
  | xor => rw [execDescriptor_of_shapeOk rfl ok]; exact handled_xor s ok
  | ld => rw [execDescriptor_of_shapeOk rfl ok]; exact handled_ld s ok
  | inc | dec =>
    rw [execDescriptor_of_shapeOk rfl ok]
    match os, ok with
    | [r], ok => exact handled_step s _ _ _ ok

end

/-- A well-formed descriptor has the right shape and dereferences only addresses. -/
theorem State.good_of_wellFormed (s : State) {d : Descriptor} (wf : d.wellFormed = true) :
    shapeOk d.mnemonic d.operands = true ∧ ¬ s.HasBadDeref d.operands := by
  simp only [Descriptor.wellFormed, Bool.and_eq_true] at wf
  obtain ⟨⟨⟨⟨⟨⟨-, -⟩, -⟩, derefs⟩, -⟩, shape⟩, -⟩ := wf
  refine ⟨shape, fun ⟨o, mem, deref, no⟩ => ?_⟩
  exact s.address_ne_none_of_derefOk (List.all_eq_true.mp derefs o mem) deref no

/-- Settles O36: a wrong shape is found before the handler runs, and a handler on its shape meets nothing but a dereference of what
is no address. -/
theorem shapeErrorExactlyOnWrongShape : Obligations.ShapeErrorExactlyOnWrongShape := by
  intro d s alive
  cases ok : shapeOk d.mnemonic d.operands with
  | false =>
    rw [execDescriptor_of_not_shapeOk ok, shapeError_eq]
    refine ⟨iff_of_true rfl (.inl rfl), fun t run => .inr (by cases run; rfl), fun wf => ?_⟩
    rw [(s.good_of_wellFormed wf).1] at ok
    cases ok
  | true =>
    rcases handled_execDescriptor s ok with ⟨bad, error⟩ | ⟨good, kept⟩
    · rw [error, shapeError_eq]
      exact ⟨iff_of_true rfl (.inr bad), fun t run => .inr (by cases run; rfl),
        fun wf => absurd bad (s.good_of_wellFormed wf).2⟩
    · have noFatal : ∀ t, execDescriptor d s = .next t → t.fatal = none := fun t run => (kept t run).trans alive
      refine ⟨iff_of_false (fun run => ?_) ?_, fun t run => .inl (noFatal t run), fun _ => noFatal⟩
      · cases noFatal _ run
      · rintro (wrong | bad)
        · cases wrong
        · exact good bad

end Sys2Proof.Machine
end
